-- ==== Sys2Proof/Word.lean ====
section
/-! DEFINITION. The words and the index types of the 6424 (spec/00_scope.md, Conventions). -/

namespace Sys2Proof

/-- One byte of a frame. -/
abbrev Byte := BitVec 8

/-- A time: a 48-bit count of ticks, compared modulo 2^48 (R119). -/
abbrev Time := BitVec 48

/-- A duration of a step descriptor, 24 bits (R21 to R25, R197). -/
abbrev Duration := BitVec 24

/-- An event line, EL0 to EL23. -/
abbrev Line := Fin 24

/-- An action output, AO0 to AO7. -/
abbrev Output := Fin 8

/-- A watch index, 0 to 63. -/
abbrev Idx := Fin 64

/-- A group, 0 to 7. -/
abbrev Group := Fin 8

end Sys2Proof
end

