-- ==== Sys2Proof/Config.lean ====
section
/-! DEFINITION. The capacities of the part (spec/00_scope.md, Capacities; R192) and its reset constants. The spec
leaves no value open, so there is no free value here (log 20). -/

namespace Sys2Proof.Config

/-- Step pool slots (R26). -/
def poolSlots : Nat := 160

/-- Steps per watch (R27). -/
def stepLimit : Nat := 6

/-- Actions per action list (R34). -/
def actionLimit : Nat := 4

/-- Edge queue depth per line (R139). -/
def queueDepth : Nat := 2

/-- The largest command payload (R183). -/
def maxPayload : Nat := 28

/-- The tick divider after a hardware reset (R126). -/
def resetDivider : BitVec 16 := 1000

/-- The sample divider after a hardware reset (R151). -/
def resetSampleDivider : Byte := 100

/-- The filter length after a hardware reset (R151). -/
def resetFilter : BitVec 4 := 3

/-- The pulse width after a hardware reset (R165). -/
def resetPulseWidth : BitVec 16 := 100

/-- Port B's address with ADDR1 and ADDR0 low (R180). -/
def portBBase : BitVec 7 := 0x38

/-- The largest last span that can be recorded (R68). -/
def maxSpan : Duration := 0xFFFFFF

/-- The nesting of conclusions the cascade operation follows: twice the 64 watches. R96 bounds the nesting, since
a conclusion inside a cascade is of a watch that is not CONCLUDED, and a re-arm nests once more (log 13). -/
def cascadeDepth : Nat := 128

end Sys2Proof.Config
end

