-- ==== Sys2Proof/Syntax.lean ====
section
/-! DEFINITION. The commands of the 6424: one constructor per row of spec/opcode_table.json.
A host command carries the port that issues it and the payload fields of R204 as raw bytes, so that an
out-of-range field can be said and is refused by the command's own rule. A happening that takes the head of a
path or of a queue carries only what names the queue: its operands travel in the request itself. A transaction
carries the bytes that open it on its bus, so that the address and the code it sends can be said and are judged. -/

namespace Sys2Proof

/-- The two host ports (R177): port A is an SPI target, port B an I2C target. -/
inductive Port where
  | A
  | B
  deriving DecidableEq, Repr

/-- How a transaction begins on its bus (R178, R180): on port A the falling of CS_N and the first byte; on port B a
start condition, the address byte after it, and the first data byte, which a read has none of and does not examine. -/
inductive Opening where
  | select (code : Byte)
  | start (address code : Byte)
  deriving DecidableEq, Repr

/-- The first byte of a transaction, whole, or one of its three moments, so that other happenings may fall between them
(R181, R182, R186; log 7): the transaction opens and the status byte is captured, the code byte is complete, the
status byte has left the port. -/
inductive HeadPart where
  | whole
  | opened
  | code
  | shifted
  deriving DecidableEq, Repr

/-- A transaction whole, with `n` bytes clocked after its first, or one of its parts (log 16): its first byte, `n`
further bytes, its end. -/
inductive TransactionPart where
  | whole (n : Nat)
  | head (h : HeadPart)
  | clock (n : Nat)
  | stop
  deriving DecidableEq, Repr

/-- A COMMAND transaction up to its frame, which is FRAME_RECEIVED's: how it opens, and its first byte, whole or in
part. -/
structure CommandHead where
  opening : Opening
  part : HeadPart
  deriving DecidableEq, Repr

/-- A transaction: how it opens, and the whole of it or one of its parts. -/
structure Transaction where
  opening : Opening
  part : TransactionPart
  deriving DecidableEq, Repr

/-- The commands and happenings of the opcode table. -/
inductive Instr where
  -- table and definition
  | create (p : Port) (tag : BitVec 16)
  | addStep (p : Port) (index : Byte) (desc : List Byte)
  | dropStep (p : Port) (index : Byte)
  | setActions (p : Port) (index side count : Byte) (acts : List (Byte × Byte))
  | setOptions (p : Port) (index rep group route : Byte)
  | seal (p : Port) (index : Byte)
  | reopen (p : Port) (index : Byte)
  | retire (p : Port) (index : Byte)
  | find (p : Port) (tag : BitVec 16)
  | readWatch (p : Port) (index part k : Byte)
  | scan (p : Port) (first count : Byte)
  | readPool (p : Port)
  -- run
  | arm (p : Port) (index : Byte)
  | cancel (p : Port) (index : Byte)
  | hold (p : Port) (index : Byte)
  | release (p : Port) (index : Byte)
  | ack (p : Port) (index : Byte)
  -- sweeps
  | armGroup (p : Port) (group : Byte)
  | holdGroup (p : Port) (group : Byte)
  | releaseGroup (p : Port) (group : Byte)
  | cancelGroup (p : Port) (group : Byte)
  | clearOwned (p : Port)
  | sweepVisit (p : Port)
  | sweepStop (p : Port)
  -- time
  | setTimebase (p : Port) (divider : BitVec 16)
  | timebaseDividerApply
  | timeHold (p : Port)
  | timeRun (p : Port)
  | readTime (p : Port)
  | tick
  -- lines
  | setLine (p : Port) (line enable polarity filter : Byte)
  | setLineApply (pins : BitVec 24)
  | levelReport (line : Line)
  | maskLine (p : Port) (line : Byte)
  | unmaskLine (p : Port) (line : Byte)
  | readLine (p : Port) (line : Byte)
  | readLevels (p : Port)
  | setSampling (p : Port) (divider : Byte)
  | sample (pins : BitVec 24)
  -- engine happenings
  | edgeTaken (line : Line)
  | deadlineExpiry
  -- outputs
  | outSet
  | outClear
  | outRelease
  | outputPurge
  | pulseEnd (output : Output)
  | setOutput (p : Port) (output mode : Byte) (width : BitVec 16) (polarity : Byte)
  | setOutputApply
  | forceOutput (p : Port) (output force : Byte)
  | forceOutputApply
  | releaseOutput (p : Port) (output : Byte)
  | releaseOutputApply
  | readOutput (p : Port) (output : Byte)
  | readOutputApply
  -- notices
  | noticePost
  | noticePurge
  | takeNotice (p : Port)
  | peekNotices (p : Port)
  | ackNotice (p : Port) (index : Byte)
  | setNoticeEnable (p : Port) (enable : Byte)
  -- ports and resets
  | identify (p : Port)
  | deviceReset (p : Port)
  | hardwareReset (addr : BitVec 2)
  | command (t : CommandHead)
  | frameReceived (p : Port) (bytes : List Byte)
  | fetch (p : Port) (o : Opening) (part : TransactionPart)
  | abort (t : Transaction)
  | status (o : Opening) (part : TransactionPart)
  | unknownTransferCode (o : Opening) (part : TransactionPart)
  deriving DecidableEq, Repr

end Sys2Proof
end

