-- ==== Sys2Proof/Decode.lean ====
section
/-! DEFINITION. Reading commands. The opcode table gives its rows no bits, so no word spells a command. What the
6424 does decode is the first byte of a transaction (R178, R180) and the command frame of a port (R183, R184, R187,
R204): their readers are here, total on any bytes and rejecting by name, and after them the frame a host sends for a
command. -/

namespace Sys2Proof

/-- The command a table word spells: none, since no row of spec/opcode_table.json has bits. -/
def decodeTableWord (_nbits _w : Nat) : Option Instr := none

/-- The four transfer codes (R178). -/
inductive Transfer where
  | command
  | fetch
  | abort
  | status
  deriving DecidableEq, Repr

/-- The transfer code a first byte is, if it is one (R178). -/
def transferOf (b : Byte) : Option Transfer :=
  match b.toNat with
  | 0xA0 => some .command
  | 0xA1 => some .fetch
  | 0xA2 => some .abort
  | 0xA3 => some .status
  | _ => none

/-- What a transaction's first byte says (R178, R180): a transfer code, no transfer code, or, on port B with direction
1, a read, in which the port sends the first byte. -/
inductive FirstByte where
  | transfer (t : Transfer)
  | unknown
  | read
  deriving DecidableEq, Repr

/-- A first byte the host sends (R178). -/
def firstByteOf (code : Byte) : FirstByte :=
  match transferOf code with
  | some t => .transfer t
  | none => .unknown

/-- The 7-bit address of an address byte, bits 7 to 1 (R180). -/
def busAddress (b : Byte) : BitVec 7 := b.extractLsb' 1 7

/-- The direction of an address byte, bit 0: true for a read (R180). -/
def busReads (b : Byte) : Bool := b.getLsbD 0

/-- What the first byte of a transaction says, by how the transaction opens (R178, R180). -/
def Opening.first : Opening → FirstByte
  | .select code => firstByteOf code
  | .start address code => if busReads address then .read else firstByteOf code

/-- The port that hears a transaction (R179, R180): port A what CS_N selects, port B what carries its address. Any
other start, the general call among them, is ignored. -/
def Opening.heardBy (portB : BitVec 7) : Opening → Option Port
  | .select _ => some .A
  | .start address _ => if busAddress address = portB then some .B else none

/-- The port on whose bus a transaction opens. -/
def Opening.bus : Opening → Port
  | .select _ => .A
  | .start _ _ => .B

/-- The bytes a part of a transaction clocks after the first. -/
def TransactionPart.further : TransactionPart → Nat
  | .whole n | .clock n => n
  | .head _ | .stop => 0

/-- One shift of the CRC register (R184): left by one place, and 07h combined in if the bit shifted out was 1. -/
def crcShift (c : Byte) : Byte := if c.msb then (c <<< 1) ^^^ 0x07 else c <<< 1

/-- One byte taken into the CRC register (R184): exclusive-or, then eight shifts. -/
def crcByte (c b : Byte) : Byte :=
  crcShift (crcShift (crcShift (crcShift (crcShift (crcShift (crcShift (crcShift (c ^^^ b))))))))

/-- The CRC of a run of bytes, from the initial value 00h (R184). -/
def crc (bytes : List Byte) : Byte := bytes.foldl crcByte 0

/-- What the port finds in a command code and payload (R187). -/
inductive CommandRead where
  | unknown
  | badLength
  | sound (c : Instr)
  deriving DecidableEq, Repr

/-- The command a code and a payload stand for (R187, R204). The code is examined before the length. -/
def readCommand (p : Port) (code : Byte) (payload : List Byte) : CommandRead :=
  match code.toNat with
  | 0x10 => match payload with | [a, b] => .sound (.create p (a ++ b)) | _ => .badLength
  | 0x11 =>
    match payload with
    | i :: d => if d.length = 20 then .sound (.addStep p i d) else .badLength
    | [] => .badLength
  | 0x12 => match payload with | [i] => .sound (.dropStep p i) | _ => .badLength
  | 0x13 =>
    match payload with
    | [i, side, n, k0, o0, k1, o1, k2, o2, k3, o3] =>
      .sound (.setActions p i side n [(k0, o0), (k1, o1), (k2, o2), (k3, o3)])
    | _ => .badLength
  | 0x14 => match payload with | [i, r, g, t] => .sound (.setOptions p i r g t) | _ => .badLength
  | 0x15 => match payload with | [i] => .sound (.seal p i) | _ => .badLength
  | 0x16 => match payload with | [i] => .sound (.reopen p i) | _ => .badLength
  | 0x17 => match payload with | [i] => .sound (.retire p i) | _ => .badLength
  | 0x18 => match payload with | [a, b] => .sound (.find p (a ++ b)) | _ => .badLength
  | 0x19 => match payload with | [i, part, k] => .sound (.readWatch p i part k) | _ => .badLength
  | 0x1A => match payload with | [a, n] => .sound (.scan p a n) | _ => .badLength
  | 0x1B => match payload with | [] => .sound (.readPool p) | _ => .badLength
  | 0x20 => match payload with | [i] => .sound (.arm p i) | _ => .badLength
  | 0x21 => match payload with | [i] => .sound (.cancel p i) | _ => .badLength
  | 0x22 => match payload with | [i] => .sound (.hold p i) | _ => .badLength
  | 0x23 => match payload with | [i] => .sound (.release p i) | _ => .badLength
  | 0x24 => match payload with | [i] => .sound (.ack p i) | _ => .badLength
  | 0x28 => match payload with | [g] => .sound (.armGroup p g) | _ => .badLength
  | 0x29 => match payload with | [g] => .sound (.holdGroup p g) | _ => .badLength
  | 0x2A => match payload with | [g] => .sound (.releaseGroup p g) | _ => .badLength
  | 0x2B => match payload with | [g] => .sound (.cancelGroup p g) | _ => .badLength
  | 0x2F => match payload with | [] => .sound (.clearOwned p) | _ => .badLength
  | 0x30 => match payload with | [a, b] => .sound (.setTimebase p (a ++ b)) | _ => .badLength
  | 0x31 => match payload with | [] => .sound (.timeHold p) | _ => .badLength
  | 0x32 => match payload with | [] => .sound (.timeRun p) | _ => .badLength
  | 0x33 => match payload with | [] => .sound (.readTime p) | _ => .badLength
  | 0x40 => match payload with | [l, e, q, f] => .sound (.setLine p l e q f) | _ => .badLength
  | 0x41 => match payload with | [l] => .sound (.maskLine p l) | _ => .badLength
  | 0x42 => match payload with | [l] => .sound (.unmaskLine p l) | _ => .badLength
  | 0x43 => match payload with | [l] => .sound (.readLine p l) | _ => .badLength
  | 0x44 => match payload with | [] => .sound (.readLevels p) | _ => .badLength
  | 0x45 => match payload with | [d] => .sound (.setSampling p d) | _ => .badLength
  | 0x50 => match payload with | [o, m, a, b, q] => .sound (.setOutput p o m (a ++ b) q) | _ => .badLength
  | 0x51 => match payload with | [o, f] => .sound (.forceOutput p o f) | _ => .badLength
  | 0x52 => match payload with | [o] => .sound (.releaseOutput p o) | _ => .badLength
  | 0x53 => match payload with | [o] => .sound (.readOutput p o) | _ => .badLength
  | 0x60 => match payload with | [] => .sound (.takeNotice p) | _ => .badLength
  | 0x61 => match payload with | [] => .sound (.peekNotices p) | _ => .badLength
  | 0x62 => match payload with | [i] => .sound (.ackNotice p i) | _ => .badLength
  | 0x63 => match payload with | [e] => .sound (.setNoticeEnable p e) | _ => .badLength
  | 0x70 => match payload with | [] => .sound (.identify p) | _ => .badLength
  | 0x7F => match payload with | [] => .sound (.deviceReset p) | _ => .badLength
  | _ => .unknown

/-- What the port finds in the bytes after a COMMAND transfer code (R183, R187). -/
inductive FrameRead where
  | faulty
  | unknown
  | badLength
  | sound (c : Instr)
  deriving DecidableEq, Repr

/-- Judges a frame: the four faults of R183 in turn, then code and length as R187 orders. -/
def readFrame (p : Port) (bytes : List Byte) : FrameRead :=
  match bytes with
  | code :: len :: rest =>
    if Config.maxPayload < len.toNat then .faulty
    else if rest.length ≠ len.toNat + 1 then .faulty
    else
      let payload := rest.take len.toNat
      if rest.getLast? ≠ some (crc (code :: len :: payload)) then .faulty
      else
        match readCommand p code payload with
        | .unknown => .unknown
        | .badLength => .badLength
        | .sound c => .sound c
  | _ => .faulty

/-- The most and the least significant byte of a 16-bit field, as sent (R197). -/
def halves (w : BitVec 16) : List Byte := [w.extractLsb' 8 8, w.extractLsb' 0 8]

/-- The code and payload a host sends for a command (R187, R204); none for a happening no host commands. -/
def Instr.codeAndPayload : Instr → Option (Byte × List Byte)
  | .create _ tag => some (0x10, halves tag)
  | .addStep _ i d => some (0x11, i :: d)
  | .dropStep _ i => some (0x12, [i])
  | .setActions _ i side n acts => some (0x13, [i, side, n] ++ acts.flatMap fun a => [a.1, a.2])
  | .setOptions _ i r g t => some (0x14, [i, r, g, t])
  | .seal _ i => some (0x15, [i])
  | .reopen _ i => some (0x16, [i])
  | .retire _ i => some (0x17, [i])
  | .find _ tag => some (0x18, halves tag)
  | .readWatch _ i part k => some (0x19, [i, part, k])
  | .scan _ a n => some (0x1A, [a, n])
  | .readPool _ => some (0x1B, [])
  | .arm _ i => some (0x20, [i])
  | .cancel _ i => some (0x21, [i])
  | .hold _ i => some (0x22, [i])
  | .release _ i => some (0x23, [i])
  | .ack _ i => some (0x24, [i])
  | .armGroup _ g => some (0x28, [g])
  | .holdGroup _ g => some (0x29, [g])
  | .releaseGroup _ g => some (0x2A, [g])
  | .cancelGroup _ g => some (0x2B, [g])
  | .clearOwned _ => some (0x2F, [])
  | .setTimebase _ d => some (0x30, halves d)
  | .timeHold _ => some (0x31, [])
  | .timeRun _ => some (0x32, [])
  | .readTime _ => some (0x33, [])
  | .setLine _ l e q f => some (0x40, [l, e, q, f])
  | .maskLine _ l => some (0x41, [l])
  | .unmaskLine _ l => some (0x42, [l])
  | .readLine _ l => some (0x43, [l])
  | .readLevels _ => some (0x44, [])
  | .setSampling _ d => some (0x45, [d])
  | .setOutput _ o m w q => some (0x50, [o, m] ++ halves w ++ [q])
  | .forceOutput _ o f => some (0x51, [o, f])
  | .releaseOutput _ o => some (0x52, [o])
  | .readOutput _ o => some (0x53, [o])
  | .takeNotice _ => some (0x60, [])
  | .peekNotices _ => some (0x61, [])
  | .ackNotice _ i => some (0x62, [i])
  | .setNoticeEnable _ e => some (0x63, [e])
  | .identify _ => some (0x70, [])
  | .deviceReset _ => some (0x7F, [])
  | .sweepVisit _ | .sweepStop _ | .timebaseDividerApply | .tick | .setLineApply _ | .levelReport _
  | .sample _ | .edgeTaken _ | .deadlineExpiry | .outSet | .outClear | .outRelease | .outputPurge
  | .pulseEnd _ | .setOutputApply | .forceOutputApply | .releaseOutputApply | .readOutputApply
  | .noticePost | .noticePurge | .hardwareReset _ | .command _ | .frameReceived _ _ | .fetch _ _ _
  | .abort _ | .status _ _ | .unknownTransferCode _ _ => none

/-- A frame's bytes (R199): first byte (a command or status code), length, payload, CRC over all before it. -/
def frameBytes (first : Byte) (payload : List Byte) : List Byte :=
  let body := first :: BitVec.ofNat 8 payload.length :: payload
  body ++ [crc body]

/-- The command frame a host sends for a command. -/
def Instr.frame (c : Instr) : Option (List Byte) := c.codeAndPayload.map fun x => frameBytes x.1 x.2

/-- The port that issues a host command. -/
def Instr.issuer : Instr → Option Port
  | .create p _ | .addStep p _ _ | .dropStep p _ | .setActions p _ _ _ _ | .setOptions p _ _ _ _ | .seal p _
  | .reopen p _ | .retire p _ | .find p _ | .readWatch p _ _ _ | .scan p _ _ | .readPool p | .arm p _
  | .cancel p _ | .hold p _ | .release p _ | .ack p _ | .armGroup p _ | .holdGroup p _
  | .releaseGroup p _ | .cancelGroup p _ | .clearOwned p | .setTimebase p _ | .timeHold p | .timeRun p
  | .readTime p | .setLine p _ _ _ _ | .maskLine p _ | .unmaskLine p _ | .readLine p _ | .readLevels p
  | .setSampling p _ | .setOutput p _ _ _ _ | .forceOutput p _ _ | .releaseOutput p _ | .readOutput p _
  | .takeNotice p | .peekNotices p | .ackNotice p _ | .setNoticeEnable p _ | .identify p
  | .deviceReset p => some p
  | .sweepVisit _ | .sweepStop _ | .timebaseDividerApply | .tick | .setLineApply _ | .levelReport _
  | .sample _ | .edgeTaken _ | .deadlineExpiry | .outSet | .outClear | .outRelease | .outputPurge
  | .pulseEnd _ | .setOutputApply | .forceOutputApply | .releaseOutputApply | .readOutputApply
  | .noticePost | .noticePurge | .hardwareReset _ | .command _ | .frameReceived _ _ | .fetch _ _ _
  | .abort _ | .status _ _ | .unknownTransferCode _ _ => none

/-- A group command or CLEAR_OWNED: a command carried out as a sweep (R108). -/
def Instr.isSweep : Instr → Bool
  | .armGroup _ _ | .holdGroup _ _ | .releaseGroup _ _ | .cancelGroup _ _ | .clearOwned _ => true
  | _ => false

/-- A command passed directly to the Timebase, the Line Unit or the Notice Unit (R187). -/
def Instr.isDirect : Instr → Bool
  | .timeHold _ | .timeRun _ | .readTime _ | .maskLine _ _ | .unmaskLine _ _ | .readLine _ _
  | .readLevels _ | .setSampling _ _ | .takeNotice _ | .peekNotices _ | .ackNotice _ _
  | .setNoticeEnable _ _ => true
  | _ => false

end Sys2Proof
end

