-- ==== Sys2Proof/Machine/State.lean ====
section
/-! DEFINITION. The state of the 6424 as plain data: everything INVENTORY.md lists under '## State', and the
machine right after a hardware reset. -/

namespace Sys2Proof.Machine

open Sys2Proof

/-- The reasons a command can stop the block with a fault: none. The spec gives the 6424 no fault that stops it;
every refusal is a response with a status code (R185, R212). Nobody raises one; safe. -/
inductive Fault where
  deriving DecidableEq, Repr

/-- The reasons a command can be refused by the model. -/
inductive Refusal where
  /-- Raised by no arm of exec: every command of the table has its meaning. Safe: it stops the machine. -/
  | notModelled (mnemonic : String)
  deriving DecidableEq, Repr

/-! ### Levels and edges -/

/-- A logical level (R136). -/
inductive Level where
  | low
  | high
  deriving DecidableEq, Repr

/-- The kind of an edge (R59, R136). -/
inductive EdgeDir where
  | rise
  | fall
  deriving DecidableEq, Repr

/-! ### The definition of a watch -/

/-- The edge kind of an EDGE step (R22). -/
inductive EdgeKind where
  | rise
  | fall
  | any
  deriving DecidableEq, Repr

/-- The wanted outcome of a FOLLOW step (R25). -/
inductive Wanted where
  | met
  | fail
  | any
  deriving DecidableEq, Repr

/-- A step's kind with the fields of that kind (R22 to R25). -/
inductive StepKind where
  | edge (p : Line) (q : Option Line) (kind : EdgeKind) (n : Byte)
  | span (p : Line) (v : Level) (min max : Option Duration)
  | delay (d : Duration)
  | follow (target : Idx) (wanted : Wanted)
  deriving DecidableEq, Repr

/-- A step descriptor (R21). -/
structure StepDesc where
  kind : StepKind
  guard : Option (Line × Level)
  notBefore : Option Duration
  notAfter : Option Duration
  deriving DecidableEq, Repr

/-- An action as stored (R33). -/
inductive Action where
  | notify
  | outSet (o : Output)
  | outClear (o : Output)
  | outRelease (o : Output)
  | arm (x : Idx)
  | cancel (x : Idx)
  | holdGroup (g : Group)
  | releaseGroup (g : Group)
  deriving DecidableEq, Repr

/-- The repeat option (R2). -/
inductive Repeat where
  | once
  | cyclic
  deriving DecidableEq, Repr

/-- The route option (R2). -/
inductive Route where
  | none
  | a
  | b
  | both
  deriving DecidableEq, Repr

/-! ### The watch record -/

/-- The lifecycle states (R5). -/
inductive WState where
  | free
  | draft
  | idle
  | armed
  | running
  | held
  | concluded
  deriving DecidableEq, Repr

/-- The state a HELD watch was held from (R3). -/
inductive RunState where
  | armed
  | running
  deriving DecidableEq, Repr

/-- The phase of a SPAN step (R3). -/
inductive Phase where
  | none
  | waitEntry
  | inSpan
  deriving DecidableEq, Repr

/-- The outcome of a conclusion (R4). -/
inductive WOutcome where
  | none
  | met
  | missed
  | broken
  | cancelled
  deriving DecidableEq, Repr

/-- The cause of an outcome (R4). -/
inductive Cause where
  | none
  | late
  | early
  | guard
  | short
  | long
  | chain
  | chainLost
  | lostEdge
  | host
  | action
  deriving DecidableEq, Repr

/-- A watch record (R1 to R4). -/
structure Watch where
  state : WState
  tag : Option (BitVec 16)
  owner : Option Port
  rep : Repeat
  group : Option Group
  route : Route
  steps : List StepDesc
  metActions : List Action
  failActions : List Action
  current : Nat
  phase : Phase
  remaining : Byte
  stepStart : Option Time
  spanStart : Option Time
  heldFrom : Option RunState
  epoch : BitVec 16
  outcome : WOutcome
  cause : Cause
  failing : Option Nat
  concludedAt : Option Time
  lastSpan : Option Duration
  armedAt : Option Time
  cycles : BitVec 16
  skipped : Byte
  deriving DecidableEq, Repr

/-- The FREE values of R1 to R4. -/
def Watch.free : Watch where
  state := .free
  tag := none
  owner := none
  rep := .once
  group := none
  route := .none
  steps := []
  metActions := []
  failActions := []
  current := 0
  phase := .none
  remaining := 0
  stepStart := none
  spanStart := none
  heldFrom := none
  epoch := 0
  outcome := .none
  cause := .none
  failing := none
  concludedAt := none
  lastSpan := none
  armedAt := none
  cycles := 0
  skipped := 0

/-! ### Lists of the engine -/

/-- The role of a listener entry (R55). -/
inductive Role where
  | trigger
  | guard
  deriving DecidableEq, Repr

/-- A listener list entry (R55). -/
structure Listener where
  watch : Idx
  role : Role
  deriving DecidableEq, Repr

/-- The kinds of a deadline (R127). -/
inductive DeadlineKind where
  | late
  | delayEnd
  | spanLong
  deriving DecidableEq, Repr

/-- A deadline list entry (R127). -/
structure Deadline where
  watch : Idx
  due : Time
  kind : DeadlineKind
  deriving DecidableEq, Repr

/-! ### Requests on the ordered paths -/

/-- The output actions (R84). -/
inductive OutKind where
  | set
  | clear
  | release
  deriving DecidableEq, Repr

/-- Output modes (R152). -/
inductive OutMode where
  | latch
  | pulse
  deriving DecidableEq, Repr

/-- Output polarities (R152). -/
inductive OutPolarity where
  | activeHigh
  | activeLow
  deriving DecidableEq, Repr

/-- Force states (R152). -/
inductive Force where
  | auto
  | on
  | off
  deriving DecidableEq, Repr

/-- A request on the output request path (R157). -/
inductive OutReq where
  | action (kind : OutKind) (o : Output) (w : Idx)
  | purge (w : Idx)
  | setOutput (p : Port) (o : Output) (mode : OutMode) (width : BitVec 16) (polarity : OutPolarity)
  | forceOutput (p : Port) (o : Output) (force : Force)
  | releaseOutput (p : Port) (o : Output)
  | readOutput (p : Port) (o : Output)
  deriving DecidableEq, Repr

/-- The snapshot a post carries (R83). -/
structure Snapshot where
  index : Idx
  tag : BitVec 16
  outcome : WOutcome
  cause : Cause
  failing : Option Nat
  concludedAt : Time
  cycles : BitVec 16
  deriving DecidableEq, Repr

/-- A request on the notice request path (R167): a post with the sets its route names, or a purge. -/
inductive NoticeReq where
  | post (route : Route) (snap : Snapshot)
  | purge (w : Idx)
  deriving DecidableEq, Repr

/-- The part of the Match Engine that a cascade changes: the records, the lists, the deadline list, and the requests
it sends on the two ordered paths. What a cascade leaves alone stands in Engine beside it. -/
structure Table where
  watches : Vector Watch 64
  listeners : Vector (List Listener) 24
  followers : Vector (List Idx) 64
  deadlines : List Deadline
  outPath : List OutReq
  noticePath : List NoticeReq
  deriving DecidableEq, Repr

/-- The engine line view of one line (R47) and its configuration mark (R141). -/
structure LineView where
  enabled : Bool
  delivered : Level
  mark : Bool
  deriving DecidableEq, Repr

/-- The kinds of a sweep (R108). -/
inductive SweepKind where
  | arm
  | hold
  | release
  | cancel
  | clear
  deriving DecidableEq, Repr

/-- A running sweep (R108): `group` is none for CLEAR_OWNED. -/
structure Sweep where
  kind : SweepKind
  group : Option Group
  next : Nat
  affected : Nat
  skipped : Nat
  deriving DecidableEq, Repr

/-- A port's sweep record (R108): what it holds while a sweep runs, and the stop request. -/
structure SweepRecord where
  run : Option Sweep
  stop : Bool
  deriving DecidableEq, Repr

/-- One item for each port. -/
structure PerPort (α : Type) where
  a : α
  b : α
  deriving DecidableEq, Repr

/-- The Match Engine. -/
structure Engine where
  table : Table
  view : Vector LineView 24
  tags : List (BitVec 16 × Idx)
  freeSlots : Nat
  sweeps : PerPort SweepRecord
  lastServed : Port
  deriving DecidableEq, Repr

/-! ### Timebase and Line Unit -/

/-- The hold state (R118). -/
inductive HoldState where
  | running
  | held
  deriving DecidableEq, Repr

/-- The Timebase (R118). -/
structure Timebase where
  now : Time
  divider : BitVec 16
  partialCount : Nat
  hold : HoldState
  deriving DecidableEq, Repr

/-- A forwarded divider (R123) and the port whose command it completes; none when a DEVICE_RESET has abandoned
that command (R194; log 12). -/
structure DividerReq where
  divider : BitVec 16
  reply : Option Port
  deriving DecidableEq, Repr

/-- Line polarity (R134). -/
inductive Polarity where
  | normal
  | inverted
  deriving DecidableEq, Repr

/-- The configuration SET_LINE gives a line (R134, R141). -/
structure LineConfig where
  enable : Bool
  polarity : Polarity
  filter : BitVec 4
  deriving DecidableEq, Repr

/-- A forwarded line configuration (R142) and the port whose command it serves. -/
structure LineReq where
  line : Line
  config : LineConfig
  reply : Option Port
  deriving DecidableEq, Repr

/-- A queued edge (R59, R139); its line is the queue's. -/
structure Edge where
  dir : EdgeDir
  stamp : Time
  lost : Bool
  deriving DecidableEq, Repr

/-- A level report (R144). -/
structure LevelReport where
  enable : Bool
  level : Level
  stamp : Time
  lost : Bool
  reply : Option Port
  deriving DecidableEq, Repr

/-- One line of the Line Unit (R134), with the level report waiting on its edge path (R144, R145). -/
structure LineState where
  config : LineConfig
  masked : Bool
  progress : Nat
  accepted : Level
  queue : List Edge
  edgeCount : BitVec 16
  lostCount : Byte
  report : Option LevelReport
  deriving DecidableEq, Repr

/-- The Line Unit (R134). -/
structure LineUnit where
  lines : Vector LineState 24
  sampleDivider : Byte
  sampleCounter : Nat
  deriving DecidableEq, Repr

/-! ### Output Unit and Notice Unit -/

/-- One action output (R152). Its active state and its pin follow from these items (R155). -/
structure OutputState where
  mode : OutMode
  width : BitVec 16
  polarity : OutPolarity
  force : Force
  drivers : Vector Bool 64
  pulseEnd : Option Time
  count : BitVec 16
  deriving DecidableEq, Repr

/-- A pending notice (R166). -/
structure Notice where
  snap : Snapshot
  overrun : Bool
  deriving DecidableEq, Repr

/-- One port's side of the Notice Unit (R166): at most one entry per index, and the notice enable. -/
structure NoticeState where
  pending : Vector (Option Notice) 64
  enable : Bool
  deriving DecidableEq, Repr

/-! ### Host ports -/

/-- The response statuses (R212). -/
inductive Status where
  | ok
  | unknownCommand
  | badLength
  | badArgument
  | noSuchWatch
  | notOwner
  | stateConflict
  | tableFull
  | poolFull
  | stepLimit
  | tagInUse
  | tagNotFound
  | invalidDefinition
  | inUse
  | lineInUse
  | lineDisabled
  | aborted
  deriving DecidableEq, Repr

/-- A response (R185): its status and payload; the frame's length and CRC follow from them. -/
structure Response where
  status : Status
  payload : List Byte
  deriving DecidableEq, Repr

/-- A port's states (R177). -/
inductive PortPhase where
  | ready
  | receiving
  | executing
  | holding
  deriving DecidableEq, Repr

/-- A request waiting at the port arbiter (R191): a command's first, or a sweep's next visit (R109). -/
inductive Request where
  | first
  | visit
  deriving DecidableEq, Repr

/-- A fetch in progress (R189): the bytes still to be returned, and whether they are the held response's. -/
structure FetchProgress where
  rest : List Byte
  live : Bool
  deriving DecidableEq, Repr

/-- Where the transaction on a port's bus stands (R178): none in progress, its first byte under way, or past its first
byte. -/
inductive BusPhase where
  | free
  | opened
  | running
  deriving DecidableEq, Repr

/-- One host port (R177), with its waiting request (R191), the transaction on its bus (R178), the status byte captured
in it and not yet shifted out (R181, R182), its fetch in progress (R189), and the bytes it returned in its latest transaction (the model's own
record of SDO or SDA; log 19). -/
structure PortState where
  phase : PortPhase
  inExec : Option Instr
  request : Option Request
  held : Option Response
  abort : Bool
  lostMark : Bool
  frameMark : Bool
  refusedMark : Bool
  resetMark : Bool
  bus : BusPhase
  capture : Option Byte
  fetch : Option FetchProgress
  out : List Byte
  deriving DecidableEq, Repr

/-- The whole part, with the levels at the event line pins (EL0 to EL23, R135; log 5), and the queue of commands that
wait (log 1). -/
structure State where
  engine : Engine
  time : Timebase
  dividerPath : List DividerReq
  linePath : List LineReq
  lineUnit : LineUnit
  outputs : Vector OutputState 8
  notices : PerPort NoticeState
  ports : PerPort PortState
  portBAddress : BitVec 7
  pins : BitVec 24
  pending : List Instr
  deriving DecidableEq, Repr

/-! ### After a hardware reset -/

/-- The table after either reset (R19); the paths are empty (R165, R176). -/
def Table.reset : Table where
  watches := Vector.replicate 64 Watch.free
  listeners := Vector.replicate 24 []
  followers := Vector.replicate 64 []
  deadlines := []
  outPath := []
  noticePath := []

/-- An empty sweep record (R108). -/
def SweepRecord.empty : SweepRecord := { run := none, stop := false }

/-- The engine after a hardware reset (R19, R47, R108, R151, R191). -/
def Engine.reset : Engine where
  table := Table.reset
  view := Vector.replicate 24 { enabled := false, delivered := .low, mark := false }
  tags := []
  freeSlots := Config.poolSlots
  sweeps := { a := SweepRecord.empty, b := SweepRecord.empty }
  lastServed := .B

/-- The Timebase after a hardware reset (R126). -/
def Timebase.reset : Timebase where
  now := 0
  divider := Config.resetDivider
  partialCount := 0
  hold := .running

/-- A line after a hardware reset (R151). -/
def LineState.reset : LineState where
  config := { enable := false, polarity := .normal, filter := Config.resetFilter }
  masked := false
  progress := 0
  accepted := .low
  queue := []
  edgeCount := 0
  lostCount := 0
  report := none

/-- The Line Unit after a hardware reset (R151). -/
def LineUnit.reset : LineUnit where
  lines := Vector.replicate 24 LineState.reset
  sampleDivider := Config.resetSampleDivider
  sampleCounter := 0

/-- An output after a hardware reset (R165). -/
def OutputState.reset : OutputState where
  mode := .latch
  width := Config.resetPulseWidth
  polarity := .activeHigh
  force := .auto
  drivers := Vector.replicate 64 false
  pulseEnd := none
  count := 0

/-- One port's side of the Notice Unit after a hardware reset (R176). -/
def NoticeState.reset : NoticeState where
  pending := Vector.replicate 64 none
  enable := false

/-- A port after a hardware reset (R195). `out` is the model's own field (log 6). -/
def PortState.reset : PortState where
  phase := .ready
  inExec := none
  request := none
  held := none
  abort := false
  lostMark := false
  frameMark := false
  refusedMark := false
  resetMark := true
  bus := .free
  capture := none
  fetch := none
  out := []

/-- The machine right after a hardware reset: every block at the values of its rule, no command waiting, and
port B's address and the event line pins as pins that are low give them (DESIGN CHOICE, log 6). -/
def State.reset : State where
  engine := Engine.reset
  time := Timebase.reset
  dividerPath := []
  linePath := []
  lineUnit := LineUnit.reset
  outputs := Vector.replicate 8 OutputState.reset
  notices := { a := NoticeState.reset, b := NoticeState.reset }
  ports := { a := PortState.reset, b := PortState.reset }
  portBAddress := Config.portBBase
  pins := 0
  pending := []

end Sys2Proof.Machine
end

