-- ==== Sys2Proof/Machine/Ops.lean ====
section
/-! DEFINITION. The named operations over the state: reading and writing records, lists and ports; comparing times;
taking a request from a port and completing its command. -/

namespace Sys2Proof.Machine

open Sys2Proof

/-! ### Times (R119) -/

/-- A time is reached when its lateness `now - u` modulo 2^48 is less than 2^47 (R119). -/
def reached (now u : Time) : Bool := (now - u).toNat < 2 ^ 47

/-- The offset of a time: `u - now` modulo 2^48, read as signed with 2^47 itself positive (R119). -/
def offset (now u : Time) : Int :=
  let d := (u - now).toNat
  if d ≤ 2 ^ 47 then (d : Int) else (d : Int) - 2 ^ 48

/-- A time falls at or after a start: their difference modulo 2^48 is less than 2^47 (R61, R70). -/
def atOrAfter (t start : Time) : Bool := (t - start).toNat < 2 ^ 47

/-- A time a duration later. -/
def after (t : Time) (d : Duration) : Time := t + d.setWidth 48

/-! ### One item for each port -/

/-- The other port. -/
def otherPort : Port → Port
  | .A => .B
  | .B => .A

/-- A port's item. -/
def PerPort.get {α : Type} (x : PerPort α) : Port → α
  | .A => x.a
  | .B => x.b

/-- Replaces a port's item. -/
def PerPort.set {α : Type} (x : PerPort α) (p : Port) (v : α) : PerPort α :=
  match p with
  | .A => { x with a := v }
  | .B => { x with b := v }

/-! ### The table -/

/-- All watch indices, in ascending order. -/
def allWatches : List Idx := List.finRange 64

/-- A watch record. -/
def Table.watch (T : Table) (i : Idx) : Watch := T.watches[i]

/-- Replaces a watch record. -/
def Table.setWatch (T : Table) (i : Idx) (w : Watch) : Table := { T with watches := T.watches.set i w }

/-- Changes a watch record. -/
def Table.modify (T : Table) (i : Idx) (f : Watch → Watch) : Table := T.setWatch i (f (T.watch i))

/-- A line's listener list. -/
def Table.listenersOf (T : Table) (l : Line) : List Listener := T.listeners[l]

/-- A watch joins the tail of a line's listener list (R55). -/
def Table.join (T : Table) (l : Line) (i : Idx) (r : Role) : Table :=
  { T with listeners := T.listeners.set l (T.listeners[l] ++ [{ watch := i, role := r }]) }

/-- A watch leaves every listener list it stands in; the entries that remain keep their order (R56). -/
def Table.leaveLines (T : Table) (i : Idx) : Table :=
  { T with listeners := T.listeners.map (fun ls => ls.filter (fun x => x.watch ≠ i)) }

/-- A watch's follower list. -/
def Table.followersOf (T : Table) (t : Idx) : List Idx := T.followers[t]

/-- A watch joins the tail of a target's follower list (R57). -/
def Table.follow (T : Table) (t i : Idx) : Table :=
  { T with followers := T.followers.set t (T.followers[t] ++ [i]) }

/-- A watch leaves a target's follower list (R57). -/
def Table.unfollow (T : Table) (t i : Idx) : Table :=
  { T with followers := T.followers.set t (T.followers[t].filter (fun x => x ≠ i)) }

/-- Empties a watch's follower list (R115). -/
def Table.clearFollowers (T : Table) (t : Idx) : Table := { T with followers := T.followers.set t [] }

/-- Inserts a deadline directly after every entry whose offset is less than or equal to its own (R128). -/
def insertDeadline (now : Time) (d : Deadline) : List Deadline → List Deadline
  | [] => [d]
  | x :: xs => if offset now x.due ≤ offset now d.due then x :: insertDeadline now d xs else d :: x :: xs

/-- A watch's deadline enters the deadline list (R127, R128). -/
def Table.addDeadline (T : Table) (now : Time) (i : Idx) (due : Time) (k : DeadlineKind) : Table :=
  { T with deadlines := insertDeadline now { watch := i, due := due, kind := k } T.deadlines }

/-- A watch's deadline entry, if it holds one, leaves the list (R129). -/
def Table.dropDeadline (T : Table) (i : Idx) : Table :=
  { T with deadlines := T.deadlines.filter (fun d => d.watch ≠ i) }

/-- A watch's LATE entry leaves the list where its due time is reached (R74). -/
def Table.dropReachedLate (T : Table) (now : Time) (i : Idx) : Table :=
  { T with deadlines := T.deadlines.filter (fun d => !(d.watch = i && d.kind = .late && reached now d.due)) }

/-- A request leaves on the output request path (R85). -/
def Table.sendOut (T : Table) (r : OutReq) : Table := { T with outPath := T.outPath ++ [r] }

/-- A request leaves on the notice request path (R85). -/
def Table.sendNotice (T : Table) (r : NoticeReq) : Table := { T with noticePath := T.noticePath ++ [r] }

/-! ### Watches -/

/-- The watch state a held-from value stands for. -/
def RunState.toWState : RunState → WState
  | .armed => .armed
  | .running => .running

/-- ARMED or RUNNING. -/
def Watch.runs (w : Watch) : Bool := w.state = .armed || w.state = .running

/-- ARMED, RUNNING or HELD: the watch is live (R5). -/
def Watch.live (w : Watch) : Bool := w.runs || w.state = .held

/-- The step being judged. -/
def Watch.step (w : Watch) : Option StepDesc := w.steps[w.current]?

/-- The target of the current step, where that is a FOLLOW step (R57). -/
def Watch.followTarget (w : Watch) : Option Idx :=
  match w.step with
  | some { kind := .follow t _, .. } => some t
  | _ => none

/-- The trigger lines of a step (R22 to R25). -/
def StepDesc.triggers (d : StepDesc) : List Line :=
  match d.kind with
  | .edge p q _ _ => p :: q.toList
  | .span p _ _ _ => [p]
  | .delay _ | .follow _ _ => []

/-- The lines a step names, as trigger or guard (R43). -/
def StepDesc.lines (d : StepDesc) : List Line := d.triggers ++ (d.guard.map Prod.fst).toList

/-- The lines named by any step of a watch (R43). -/
def Watch.lines (w : Watch) : List Line := w.steps.flatMap StepDesc.lines

/-- Adds one, saturating at the top value. -/
def satInc {n : Nat} (x : BitVec n) : BitVec n := if x = BitVec.allOnes n then x else x + 1

/-- The lowest FREE index (R10). -/
def Table.lowestFree (T : Table) : Option Idx := allWatches.find? (fun i => (T.watch i).state = .free)

/-! ### Engine and state -/

/-- Replaces the table. -/
def Engine.withTable (e : Engine) (T : Table) : Engine := { e with table := T }

/-- A watch record of the engine. -/
def Engine.watch (e : Engine) (i : Idx) : Watch := e.table.watch i

/-- Changes one watch record of the engine and nothing else. -/
def Engine.modify (e : Engine) (i : Idx) (f : Watch → Watch) : Engine := e.withTable (e.table.modify i f)

/-- A port. -/
def State.port (s : State) (p : Port) : PortState := s.ports.get p

/-- Replaces a port. -/
def State.setPort (s : State) (p : Port) (x : PortState) : State := { s with ports := s.ports.set p x }

/-- Replaces the engine. -/
def State.setEngine (s : State) (e : Engine) : State := { s with engine := e }

/-- A port's sweep record. -/
def State.sweep (s : State) (p : Port) : SweepRecord := s.engine.sweeps.get p

/-- Replaces a port's sweep record. -/
def State.setSweep (s : State) (p : Port) (r : SweepRecord) : State :=
  s.setEngine { s.engine with sweeps := s.engine.sweeps.set p r }

/-- A line of the Line Unit. -/
def State.line (s : State) (l : Line) : LineState := s.lineUnit.lines[l]

/-- Replaces a line of the Line Unit. -/
def State.setLine (s : State) (l : Line) (x : LineState) : State :=
  { s with lineUnit := { s.lineUnit with lines := s.lineUnit.lines.set l x } }

/-- The engine line view of a line. -/
def State.view (s : State) (l : Line) : LineView := s.engine.view[l]

/-- Replaces the engine line view of a line. -/
def State.setView (s : State) (l : Line) (v : LineView) : State :=
  s.setEngine { s.engine with view := s.engine.view.set l v }

/-- An output of the Output Unit. -/
def State.output (s : State) (o : Output) : OutputState := s.outputs[o]

/-- Replaces an output. -/
def State.setOutput (s : State) (o : Output) (x : OutputState) : State := { s with outputs := s.outputs.set o x }

/-- A port's side of the Notice Unit. -/
def State.notice (s : State) (p : Port) : NoticeState := s.notices.get p

/-- Replaces a port's side of the Notice Unit. -/
def State.setNotice (s : State) (p : Port) (x : NoticeState) : State := { s with notices := s.notices.set p x }

/-- Replaces the output request path. -/
def State.setOutPath (s : State) (path : List OutReq) : State :=
  s.setEngine (s.engine.withTable { s.engine.table with outPath := path })

/-- Replaces the notice request path. -/
def State.setNoticePath (s : State) (path : List NoticeReq) : State :=
  s.setEngine (s.engine.withTable { s.engine.table with noticePath := path })

/-! ### Responses and completion -/

/-- An OK response (R185). -/
def Response.ok (payload : List Byte) : Response := { status := .ok, payload := payload }

/-- A refusal: the status code alone (R8, R185). -/
def Response.refuse (st : Status) : Response := { status := st, payload := [] }

/-- A block places its response at the port (R188): the port enters HOLDING with it, or, with an abort request
present, discards it and enters READY, unless it is the ABORTED of a stopped sweep (R190). -/
def PortState.complete (ps : PortState) (r : Response) : PortState :=
  if ps.abort && r.status ≠ .aborted then
    { ps with phase := .ready, inExec := none, request := none, held := none, abort := false }
  else
    { ps with phase := .holding, inExec := none, request := none, held := some r, abort := false }

/-- The command of a port completes (R188). -/
def State.complete (s : State) (p : Port) (r : Response) : State := s.setPort p ((s.port p).complete r)

/-- A forwarded command completes at its port, if that port still waits for it (R188, R194). -/
def State.reply (s : State) (dest : Option Port) (r : Response) : State :=
  match dest with
  | some p => s.complete p r
  | none => s

/-- The end of a happening that took a port's command: the response, if it is made here, is placed at the port. -/
def finish (p : Port) : State × Option Response → State
  | (s, some r) => s.complete p r
  | (s, none) => s

/-- The arbiter passes this port's waiting request: the other port has none waiting, or was the one last served
(R191). -/
def State.granted (s : State) (p : Port) : Bool :=
  (s.port (otherPort p)).request = none || s.engine.lastServed = otherPort p

/-- The command is in execution at the port, its request waits, and the arbiter passes it. -/
def State.offers (s : State) (p : Port) (c : Instr) (r : Request) : Bool :=
  (s.port p).inExec = some c && (s.port p).request = some r && s.granted p

/-- The arbiter passes the port's request: it no longer waits, and the port is the one last served (R191). -/
def State.pass (s : State) (p : Port) : State :=
  (s.setPort p { s.port p with request := none }).setEngine { s.engine with lastServed := p }

/-- The engine takes a port's command as one happening (R9). A command that does not wait at the arbiter, or is not
the one passed, is not taken and changes nothing (log 2). -/
def atEngine (p : Port) (c : Instr) (s : State) (body : State → State × Option Response) :
    Host.Outcome State Fault Refusal :=
  if s.offers p c .first then .next (finish p (body (s.pass p))) else .next s

/-- A command of the engine that changes the engine alone and completes in its happening. -/
def onEngine (f : Engine → Engine × Response) (s : State) : State × Option Response :=
  let (e, r) := f s.engine
  (s.setEngine e, some r)

/-- A block other than the engine takes a port's command directly as one happening (R187). A command that is not in
execution is not taken and changes nothing (log 2). -/
def atBlock (p : Port) (c : Instr) (s : State) (body : State → State × Response) :
    Host.Outcome State Fault Refusal :=
  if (s.port p).inExec = some c then
    let (s', r) := body s
    .next (s'.complete p r)
  else .next s

/-! ### The checks of R8 -/

/-- The checks of R8 for a command that names a watch by index: range, FREE, owner (for a mutating command), and
the states from which it is taken. -/
def checkWatch (e : Engine) (p : Port) (index : Byte) (mutating : Bool) (takenFrom : WState → Bool) :
    Except Status Idx :=
  if h : index.toNat < 64 then
    let i : Idx := ⟨index.toNat, h⟩
    let w := e.watch i
    if w.state = .free then .error .noSuchWatch
    else if mutating && w.owner ≠ some p then .error .notOwner
    else if !takenFrom w.state then .error .stateConflict
    else .ok i
  else .error .badArgument

/-- A command that names a watch: refused by the first failing check of R8, else carried out on the watch. -/
def onWatch (e : Engine) (p : Port) (index : Byte) (mutating : Bool) (takenFrom : WState → Bool)
    (k : Idx → Engine × Response) : Engine × Response :=
  match checkWatch e p index mutating takenFrom with
  | .error st => (e, .refuse st)
  | .ok i => k i

/-! ### Freeing a watch -/

/-- The watch returns to FREE (R12 steps 1 to 5, R114 steps 3 to 6): its slots return to the pool, its tag leaves
the map, a purge leaves on each path, and every field takes its FREE value. -/
def Engine.freeWatch (e : Engine) (i : Idx) : Engine :=
  { e with
    freeSlots := e.freeSlots + (e.watch i).steps.length
    tags := e.tags.filter (fun x => x.2 ≠ i)
    table := ((e.table.sendOut (.purge i)).sendNotice (.purge i)).setWatch i Watch.free }

end Sys2Proof.Machine
end

