-- ==== Sys2Proof/Machine/Operands.lean ====
section
/-! DEFINITION. The operand forms: the value codes of R201 and R212 both ways, the step descriptor and the action
(R202, R203) both ways, and the fields and maps of the response payloads (R197 to R200). -/

namespace Sys2Proof.Machine

open Sys2Proof

/-! ### Fields and maps (R197) -/

/-- The `n` bytes of a number, most significant first (R197). -/
def bytesOf : Nat → Nat → List Byte
  | 0, _ => []
  | n + 1, v => BitVec.ofNat 8 (v >>> (8 * n)) :: bytesOf n v

/-- The number a run of bytes carries, most significant first (R197). -/
def numberOf (bs : List Byte) : Nat := bs.foldl (fun a b => a * 256 + b.toNat) 0

/-- A map with one bit for each mark, bit `n` for item `n` (R197). -/
def mapNumber (marks : List Bool) : Nat := marks.foldr (fun b a => (if b then 1 else 0) + 2 * a) 0

/-- A yes/no item (R201). -/
def yesNo (b : Bool) : Byte := if b then 1 else 0

/-- An optional time's value bytes: 0 when absent (R198). -/
def timeBytes (t : Option Time) : List Byte := bytesOf 6 (t.elim 0 BitVec.toNat)

/-- An optional duration's value bytes: 0 when absent (R198). -/
def durationBytes (d : Option Duration) : List Byte := bytesOf 3 (d.elim 0 BitVec.toNat)

/-- A flag byte, bit `n` for flag `n` (R198). -/
def flagByte (flags : List Bool) : Byte := BitVec.ofNat 8 (mapNumber flags)

/-- A byte read as an index below `n`, if it is one. -/
def indexOf (n : Nat) (b : Byte) : Option (Fin n) := if h : b.toNat < n then some ⟨b.toNat, h⟩ else none

/-- A byte that carries an index. -/
def indexByte {n : Nat} (i : Fin n) : Byte := BitVec.ofNat 8 i.val

/-! ### Value codes (R201) -/

/-- The state code. -/
def WState.code : WState → Byte
  | .free => 0
  | .draft => 1
  | .idle => 2
  | .armed => 3
  | .running => 4
  | .held => 5
  | .concluded => 6

/-- The held-from code: 00h when absent. -/
def heldFromCode : Option RunState → Byte
  | none => 0
  | some .armed => 3
  | some .running => 4

/-- The owner code: 00h when absent. -/
def ownerCode : Option Port → Byte
  | none => 0
  | some .A => 1
  | some .B => 2

/-- The repeat code. -/
def Repeat.code : Repeat → Byte
  | .once => 0
  | .cyclic => 1

/-- The repeat a code stands for. -/
def repeatOf (b : Byte) : Option Repeat := if b = 0 then some .once else if b = 1 then some .cyclic else none

/-- The group code: FFh for none. -/
def groupCode : Option Group → Byte
  | none => 0xFF
  | some g => indexByte g

/-- The group option a code stands for: none, or 0 to 7. -/
def groupOf (b : Byte) : Option (Option Group) :=
  if b = 0xFF then some none else (indexOf 8 b).map some

/-- The route code. -/
def Route.code : Route → Byte
  | .none => 0
  | .a => 1
  | .b => 2
  | .both => 3

/-- The route a code stands for. -/
def routeOf (b : Byte) : Option Route :=
  if b = 0 then some .none else if b = 1 then some .a else if b = 2 then some .b
  else if b = 3 then some .both else Option.none

/-- The phase code. -/
def Phase.code : Phase → Byte
  | .none => 0
  | .waitEntry => 1
  | .inSpan => 2

/-- The outcome code. -/
def WOutcome.code : WOutcome → Byte
  | .none => 0
  | .met => 1
  | .missed => 2
  | .broken => 3
  | .cancelled => 4

/-- The cause code. -/
def Cause.code : Cause → Byte
  | .none => 0
  | .late => 1
  | .early => 2
  | .guard => 3
  | .short => 4
  | .long => 5
  | .chain => 6
  | .chainLost => 7
  | .lostEdge => 8
  | .host => 9
  | .action => 10

/-- The deadline kind code: 00h when there is no entry (R17). -/
def deadlineKindCode : Option DeadlineKind → Byte
  | none => 0
  | some .late => 1
  | some .delayEnd => 2
  | some .spanLong => 3

/-- The level code. -/
def Level.code : Level → Byte
  | .low => 0
  | .high => 1

/-- The level a code stands for. -/
def levelOf (b : Byte) : Option Level := if b = 0 then some .low else if b = 1 then some .high else none

/-- The edge kind code. -/
def EdgeKind.code : EdgeKind → Byte
  | .rise => 1
  | .fall => 2
  | .any => 3

/-- The edge kind a code stands for. -/
def edgeKindOf (b : Byte) : Option EdgeKind :=
  if b = 1 then some .rise else if b = 2 then some .fall else if b = 3 then some .any else none

/-- The wanted outcome code. -/
def Wanted.code : Wanted → Byte
  | .met => 1
  | .fail => 2
  | .any => 3

/-- The wanted outcome a code stands for. -/
def wantedOf (b : Byte) : Option Wanted :=
  if b = 1 then some .met else if b = 2 then some .fail else if b = 3 then some .any else none

/-- An ON or OFF code. -/
def onOffOf (b : Byte) : Option Bool := if b = 0 then some false else if b = 1 then some true else none

/-- The line polarity code. -/
def Polarity.code : Polarity → Byte
  | .normal => 0
  | .inverted => 1

/-- The line polarity a code stands for. -/
def polarityOf (b : Byte) : Option Polarity :=
  if b = 0 then some .normal else if b = 1 then some .inverted else none

/-- The hold state code. -/
def HoldState.code : HoldState → Byte
  | .running => 0
  | .held => 1

/-- The output mode code. -/
def OutMode.code : OutMode → Byte
  | .latch => 0
  | .pulse => 1

/-- The output mode a code stands for. -/
def outModeOf (b : Byte) : Option OutMode := if b = 0 then some .latch else if b = 1 then some .pulse else none

/-- The output polarity code. -/
def OutPolarity.code : OutPolarity → Byte
  | .activeHigh => 0
  | .activeLow => 1

/-- The output polarity a code stands for. -/
def outPolarityOf (b : Byte) : Option OutPolarity :=
  if b = 0 then some .activeHigh else if b = 1 then some .activeLow else none

/-- The force state code. -/
def Force.code : Force → Byte
  | .auto => 0
  | .on => 1
  | .off => 2

/-- The force state a code stands for. -/
def forceOf (b : Byte) : Option Force :=
  if b = 0 then some .auto else if b = 1 then some .on else if b = 2 then some .off else none

/-- The status code (R212). -/
def Status.code : Status → Byte
  | .ok => 0x00
  | .unknownCommand => 0x01
  | .badLength => 0x02
  | .badArgument => 0x03
  | .noSuchWatch => 0x04
  | .notOwner => 0x05
  | .stateConflict => 0x06
  | .tableFull => 0x07
  | .poolFull => 0x08
  | .stepLimit => 0x09
  | .tagInUse => 0x0A
  | .tagNotFound => 0x0B
  | .invalidDefinition => 0x0C
  | .inUse => 0x0D
  | .lineInUse => 0x0E
  | .lineDisabled => 0x0F
  | .aborted => 0x10

/-- The bytes of a response frame (R185, R199): status code, length, payload, CRC. -/
def Response.bytes (r : Response) : List Byte := frameBytes r.status.code r.payload

/-! ### The step descriptor (R202) -/

/-- Three bytes of a descriptor from an offset on, as a duration. -/
def durationAt (d : List Byte) (k : Nat) : Duration := d.getD k 0 ++ d.getD (k + 1) 0 ++ d.getD (k + 2) 0

/-- An optional field of a command payload: absent when its flag is clear, its bytes then not examined (R198);
the inner none is a field that is out of range. -/
def optionalField {α : Type} (flag : Bool) (v : Option α) : Option (Option α) :=
  if flag then v.map some else some none

/-- A duration that is present must not be 0 (R30). -/
def nonzero (d : Duration) : Option Duration := if d = 0 then none else some d

/-- The kind-specific fields of a descriptor, checked field by field (R22 to R25, R30, R202). -/
def readKind (d : List Byte) : Option StepKind :=
  let flags := d.getD 1 0
  let b (k : Nat) : Byte := d.getD k 0
  if b 0 = 1 then do
    let p ← indexOf 24 (b 10)
    let q ← optionalField (flags.getLsbD 3) (indexOf 24 (b 11))
    let kind ← edgeKindOf (b 12)
    if b 13 = 0 then none else some (.edge p q kind (b 13))
  else if b 0 = 2 then do
    let p ← indexOf 24 (b 10)
    let v ← levelOf (b 11)
    let mn ← optionalField (flags.getLsbD 4) (nonzero (durationAt d 14))
    let mx ← optionalField (flags.getLsbD 5) (nonzero (durationAt d 17))
    some (.span p v mn mx)
  else if b 0 = 3 then do
    let len ← nonzero (durationAt d 14)
    some (.delay len)
  else if b 0 = 4 then do
    let t ← indexOf 64 (b 10)
    let w ← wantedOf (b 11)
    some (.follow t w)
  else none

/-- The descriptor 20 bytes stand for, or none when a field is out of range (R30, R202). -/
def readStep (d : List Byte) : Option StepDesc := do
  let flags := d.getD 1 0
  let kind ← readKind d
  let guard ← optionalField (flags.getLsbD 0) (do
    let g ← indexOf 24 (d.getD 2 0)
    let v ← levelOf (d.getD 3 0)
    some (g, v))
  let nb ← optionalField (flags.getLsbD 1) (nonzero (durationAt d 4))
  let na ← optionalField (flags.getLsbD 2) (nonzero (durationAt d 7))
  some { kind := kind, guard := guard, notBefore := nb, notAfter := na }

/-- The kind code of a stored step (R201). -/
def StepKind.code : StepKind → Byte
  | .edge _ _ _ _ => 1
  | .span _ _ _ _ => 2
  | .delay _ => 3
  | .follow _ _ => 4

/-- The presence flags of a stored step (R202); flags of other kinds' fields read back 0. -/
def StepDesc.flags (d : StepDesc) : Byte :=
  flagByte [d.guard.isSome, d.notBefore.isSome, d.notAfter.isSome,
    match d.kind with | .edge _ q _ _ => q.isSome | _ => false,
    match d.kind with | .span _ _ mn _ => mn.isSome | _ => false,
    match d.kind with | .span _ _ _ mx => mx.isSome | _ => false]

/-- Offsets 10 to 19 of a stored step (R202); reserved bytes and absent fields read back 0. -/
def StepKind.bytes : StepKind → List Byte
  | .edge p q kind n => [indexByte p, q.elim 0 indexByte, kind.code, n, 0, 0, 0, 0, 0, 0]
  | .span p v mn mx => [indexByte p, v.code, 0, 0] ++ durationBytes mn ++ durationBytes mx
  | .delay d => [0, 0, 0, 0] ++ durationBytes (some d) ++ [0, 0, 0]
  | .follow t w => [indexByte t, w.code, 0, 0, 0, 0, 0, 0, 0, 0]

/-- The 20 bytes of a stored step, as the STEP part of READ_WATCH returns them (R18, R202). -/
def StepDesc.bytes (d : StepDesc) : List Byte :=
  [d.kind.code, d.flags, d.guard.elim 0 (fun g => indexByte g.1), d.guard.elim 0 (fun g => g.2.code)] ++
    durationBytes d.notBefore ++ durationBytes d.notAfter ++ d.kind.bytes

/-! ### The action (R203) -/

/-- The action a kind and an operand byte stand for, or none when either is out of range (R34, R203). -/
def readAction (k o : Byte) : Option Action :=
  if k = 1 then (if o = 0 then some .notify else none)
  else if k = 2 then (indexOf 8 o).map .outSet
  else if k = 3 then (indexOf 8 o).map .outClear
  else if k = 4 then (indexOf 8 o).map .outRelease
  else if k = 5 then (indexOf 64 o).map .arm
  else if k = 6 then (indexOf 64 o).map .cancel
  else if k = 7 then (indexOf 8 o).map .holdGroup
  else if k = 8 then (indexOf 8 o).map .releaseGroup
  else none

/-- A stored action's two bytes (R203). -/
def Action.bytes : Action → List Byte
  | .notify => [1, 0]
  | .outSet o => [2, indexByte o]
  | .outClear o => [3, indexByte o]
  | .outRelease o => [4, indexByte o]
  | .arm x => [5, indexByte x]
  | .cancel x => [6, indexByte x]
  | .holdGroup g => [7, indexByte g]
  | .releaseGroup g => [8, indexByte g]

/-- An action list's positions 0 to 3, positions beyond its length read 0 (R200, R206). -/
def actionListBytes (acts : List Action) : List Byte :=
  ((acts.flatMap Action.bytes) ++ List.replicate 8 0).take 8

/-! ### Response payloads -/

/-- The SUMMARY part (R16, R206). -/
def summaryBytes (w : Watch) : List Byte :=
  [w.state.code] ++ bytesOf 2 (w.tag.elim 0 BitVec.toNat) ++
    [ownerCode w.owner, w.rep.code, groupCode w.group, w.route.code, BitVec.ofNat 8 w.steps.length,
      BitVec.ofNat 8 w.metActions.length, BitVec.ofNat 8 w.failActions.length, heldFromCode w.heldFrom]

/-- The PROGRESS part (R17, R206), with the watch's entry in the deadline list. -/
def progressBytes (w : Watch) (d : Option Deadline) : List Byte :=
  [w.state.code, BitVec.ofNat 8 w.current, w.phase.code, w.remaining] ++ bytesOf 2 w.epoch.toNat ++
    [flagByte [w.stepStart.isSome, w.spanStart.isSome, d.isSome]] ++ timeBytes w.stepStart ++
    timeBytes w.spanStart ++ [deadlineKindCode (d.map Deadline.kind)] ++ timeBytes (d.map Deadline.due)

/-- The RESULTS part (R17, R206). -/
def resultsBytes (w : Watch) : List Byte :=
  [w.outcome.code, w.cause.code,
    flagByte [w.failing.isSome, w.concludedAt.isSome, w.lastSpan.isSome, w.armedAt.isSome],
    BitVec.ofNat 8 (w.failing.getD 0)] ++ timeBytes w.concludedAt ++ durationBytes w.lastSpan ++
    timeBytes w.armedAt ++ bytesOf 2 w.cycles.toNat ++ [w.skipped]

/-- The ACTIONS part (R18, R206). -/
def actionsBytes (w : Watch) : List Byte :=
  [BitVec.ofNat 8 w.metActions.length] ++ actionListBytes w.metActions ++
    [BitVec.ofNat 8 w.failActions.length] ++ actionListBytes w.failActions

/-- A SCAN entry: the owner code above the state code (R207). -/
def scanByte (w : Watch) : Byte := ownerCode w.owner <<< 4 ||| w.state.code

/-- The TAKE_NOTICE response for a removed entry and the number left (R208). -/
def noticeBytes (n : Notice) (left : Nat) : List Byte :=
  [1, BitVec.ofNat 8 left, indexByte n.snap.index] ++ bytesOf 2 n.snap.tag.toNat ++
    [n.snap.outcome.code, n.snap.cause.code, flagByte [n.snap.failing.isSome, n.overrun],
      BitVec.ofNat 8 (n.snap.failing.getD 0)] ++ bytesOf 6 n.snap.concludedAt.toNat ++
    bytesOf 2 n.snap.cycles.toNat

/-- The READ_LINE response (R149, R209). -/
def lineBytes (x : LineState) (v : LineView) : List Byte :=
  [yesNo x.config.enable, x.config.polarity.code, x.config.filter.setWidth 8, yesNo x.masked, x.accepted.code,
    v.delivered.code] ++ bytesOf 2 x.edgeCount.toNat ++
    [x.lostCount, BitVec.ofNat 8 x.queue.length, yesNo (x.queue.any Edge.lost)]

/-- The IDENTIFY response (R192, R211). -/
def identifyBytes : List Byte := [0x64, 0x24, 1, 64, 160, 6, 4, 24, 8, 8]

end Sys2Proof.Machine
end

