-- ==== Sys2Proof/Machine/Flags.lean ====
section
/-! DEFINITION. What the part derives from its state: an output's active state and pin (R155), the notice lines
and the NOTICE mark (R175), the status byte (R181, R199), and the clearing of the sticky marks it carries (R182). -/

namespace Sys2Proof.Machine

open Sys2Proof

/-- A pulse is running: the pulse end is present and not reached (R154). -/
def OutputState.pulseRuns (x : OutputState) (now : Time) : Bool := x.pulseEnd.any (fun e => !reached now e)

/-- The active state of an output, from its force state, mode, claims and pulse (R155). -/
def OutputState.active (x : OutputState) (now : Time) : Bool :=
  match x.force, x.mode with
  | .on, _ => true
  | .off, _ => false
  | .auto, .latch => x.drivers.toList.any id
  | .auto, .pulse => x.pulseRuns now

/-- The electrical level of an output's pin, true for high (R155). -/
def OutputState.pin (x : OutputState) (now : Time) : Bool :=
  match x.polarity with
  | .activeHigh => x.active now
  | .activeLow => !x.active now

/-- The end of a happening that changed an output from `before`: its activation count rises by one if it was
inactive before and is active after (R156). -/
def OutputState.settle (before after : OutputState) (now : Time) : OutputState :=
  if !before.active now && after.active now then { after with count := after.count + 1 } else after

/-- The number of watches in an output's driver set (R153, R163). -/
def OutputState.members (x : OutputState) : Nat := x.drivers.toList.count true

/-- The number of entries in a pending set (R166). -/
def NoticeState.count (x : NoticeState) : Nat := x.pending.toList.countP Option.isSome

/-- A port's pending set is not empty: the NOTICE mark (R175, R181). -/
def NoticeState.any (x : NoticeState) : Bool := x.pending.toList.any Option.isSome

/-- A port's notice line is asserted, driven low, exactly when its enable is on and its set is not empty
(R175). -/
def NoticeState.asserted (x : NoticeState) : Bool := x.enable && x.any

/-- The status byte of a port (R181, R199). -/
def State.statusByte (s : State) (p : Port) : Byte :=
  let ps := s.port p
  flagByte [ps.resetMark, (s.notice p).any, ps.refusedMark, ps.frameMark, ps.lostMark,
    ps.phase = .holding, ps.phase = .executing, true]

/-- A captured status byte has left the port: the sticky marks it carries are cleared, each a mark of the byte (R182,
R199). A mark set since the capture that the byte does not carry stays; setting one that it carries changed nothing. -/
def PortState.shiftOut (x : PortState) (byte : Byte) : PortState :=
  { x with
    bus := .running, capture := none, out := x.out ++ [byte]
    lostMark := x.lostMark && !byte.getLsbD 4, frameMark := x.frameMark && !byte.getLsbD 3
    refusedMark := x.refusedMark && !byte.getLsbD 2, resetMark := x.resetMark && !byte.getLsbD 0 }

end Sys2Proof.Machine
end

