-- ==== Sys2Proof/Machine/Cascade.lean ====
section
/-! DEFINITION. Step begin, step end, the conclusion procedure with its actions and deliveries, and the judging of
edges and deliveries (spec/03 and spec/04). A conclusion inside a cascade runs whole before the procedure that
caused it goes on (R80): every operation below that may conclude a watch takes the conclusion procedure `rec` as
an argument, and `conclude` ties the knot by the depth of nesting. -/

namespace Sys2Proof.Machine

open Sys2Proof

/-- What a happening of the engine reads and no cascade changes: `now`, read once (R120), and the engine line
view. -/
structure Ctx where
  now : Time
  view : Vector LineView 24

/-- The engine's context within a happening. -/
def State.ctx (s : State) : Ctx := { now := s.time.now, view := s.engine.view }

/-- A conclusion procedure: the table, the watch, its outcome, cause and time, and the table after it (R78). -/
abbrev Concluder := Table → Idx → WOutcome → Cause → Time → Table

/-! ### Step end (R58) -/

/-- Ends a watch's step: it leaves the listener lists, its target's follower list if the step is a FOLLOW step, and
the deadline list (R58). -/
def endStep (T : Table) (i : Idx) : Table :=
  let T1 := T.leaveLines i
  let T2 := match (T.watch i).followTarget with
    | some t => T1.unfollow t i
    | none => T1
  T2.dropDeadline i

/-! ### Step begin (R49 to R54) -/

/-- The first four items of every step begin (R49). -/
def Watch.begun (w : Watch) (k : Nat) (t : Time) : Watch :=
  { w with
    epoch := w.epoch + 1, stepStart := some t, current := k, phase := .none, remaining := 0, spanStart := none }

/-- The window deadline of a step (R53): a LATE entry due at t + not_after + 1, for any kind but DELAY. -/
def addWindow (c : Ctx) (T : Table) (i : Idx) (d : StepDesc) (t : Time) : Table :=
  match d.kind, d.notAfter with
  | .delay _, _ => T
  | _, some na => T.addDeadline c.now i (after t na + 1) .late
  | _, none => T

/-- The guard check of a step begin (R52), and after a match the window deadline (R53). -/
def checkGuard (rec : Concluder) (c : Ctx) (T : Table) (i : Idx) (d : StepDesc) (t : Time) : Table :=
  match d.guard with
  | none => addWindow c T i d t
  | some (g, v) =>
    if c.view[g].delivered = v then addWindow c (T.join g i .guard) i d t else rec T i .broken .guard t

/-- A FOLLOW target passes its check at step begin: it is not FREE and has the same owner (R51). -/
def targetPasses (T : Table) (i tgt : Idx) : Bool :=
  (T.watch tgt).state ≠ .free && (T.watch tgt).owner = (T.watch i).owner

/-- The setup of a step by its kind (R50, R51), then guard and window. -/
def setUpStep (rec : Concluder) (c : Ctx) (T : Table) (i : Idx) (d : StepDesc) (t : Time) : Table :=
  match d.kind with
  | .edge p q _ n =>
    let T1 := (T.modify i fun w => { w with remaining := n }).join p i .trigger
    let T2 := match q with
      | some q => T1.join q i .trigger
      | none => T1
    checkGuard rec c T2 i d t
  | .span p _ _ _ =>
    checkGuard rec c ((T.modify i fun w => { w with phase := .waitEntry }).join p i .trigger) i d t
  | .delay len => checkGuard rec c (T.addDeadline c.now i (after t len) .delayEnd) i d t
  | .follow tgt _ =>
    if targetPasses T i tgt then checkGuard rec c (T.follow tgt i) i d t
    else rec T i .broken .chainLost t

/-- Begins step `k` of a watch at time `t` (R49). -/
def beginStep (rec : Concluder) (c : Ctx) (T : Table) (i : Idx) (k : Nat) (t : Time) : Table :=
  let T1 := T.modify i fun w => w.begun k t
  match (T.watch i).steps[k]? with
  | some d => setUpStep rec c T1 i d t
  | none => T1

/-! ### Arming, holding, releasing (R44, R45, R100, R103) -/

/-- The results cleared and the state set by an arming at `t` (R44). -/
def Watch.armedWith (w : Watch) (t : Time) : Watch :=
  { w with
    outcome := .none, cause := .none, failing := none, concludedAt := none, lastSpan := none
    cycles := 0, skipped := 0, armedAt := some t, state := .armed, heldFrom := none }

/-- Arms a watch at `t` and begins its step 0 (R44, R45). -/
def armWatch (rec : Concluder) (c : Ctx) (T : Table) (i : Idx) (t : Time) : Table :=
  beginStep rec c (T.modify i fun w => w.armedWith t) i 0 t

/-- The record of a watch that is held (R100). -/
def Watch.heldNow (w : Watch) : Watch :=
  { w with heldFrom := some (if w.state = .armed then .armed else .running), state := .held }

/-- Holds an ARMED or RUNNING watch: held from is recorded and its deadline is removed (R100). -/
def holdWatch (T : Table) (i : Idx) : Table := (T.modify i Watch.heldNow).dropDeadline i

/-- The record of a watch that is released (R103 step 2). -/
def Watch.releasedNow (w : Watch) : Watch :=
  { w with state := (w.heldFrom.getD .armed).toWState, heldFrom := none }

/-- Releases a HELD watch: its entries leave its lists and its current step begins again at `now` (R103). -/
def releaseWatch (rec : Concluder) (c : Ctx) (T : Table) (i : Idx) : Table :=
  let T1 := T.leaveLines i
  let T2 := match (T.watch i).followTarget with
    | some t => T1.unfollow t i
    | none => T1
  beginStep rec c (T2.modify i Watch.releasedNow) i (T.watch i).current c.now

/-! ### Judging (R65, R73) -/

/-- The verdict of a step's window on an occurrence (R65). -/
inductive WindowVerdict where
  | early
  | late (due : Time)
  | accepted
  deriving DecidableEq, Repr

/-- Judges an occurrence at `τ` against the window of a step begun at `start` (R65). -/
def judgeWindow (d : StepDesc) (start τ : Time) : WindowVerdict :=
  let e := τ - start
  if d.notBefore.any (fun nb => e.toNat < nb.toNat) then .early
  else
    match d.notAfter with
    | some na => if na.toNat < e.toNat then .late (after start na + 1) else .accepted
    | none => .accepted

/-- An occurrence is judged against the window; accepted, the step goes on as its kind states (R65). -/
def judged (rec : Concluder) (T : Table) (i : Idx) (d : StepDesc) (start τ : Time) (k : Table) : Table :=
  match judgeWindow d start τ with
  | .early => rec T i .broken .early τ
  | .late due => rec T i .missed .late due
  | .accepted => k

/-- A step completes at `t`: it ends, and the next step begins at `t`, or the watch concludes MET (R73). -/
def completeStep (rec : Concluder) (c : Ctx) (T : Table) (i : Idx) (t : Time) : Table :=
  let T1 := endStep T i
  let w := T.watch i
  if w.current + 1 < w.steps.length then
    beginStep rec c (T1.modify i fun w => { w with state := .running }) i (w.current + 1) t
  else rec T1 i .met .none t

/-! ### Actions (R82 to R89) -/

/-- A skipped action of the acting watch (R82). -/
def skipAction (T : Table) (w : Idx) : Table := T.modify w fun x => { x with skipped := satInc x.skipped }

/-- The snapshot a NOTIFY carries (R83). -/
def snapshotOf (i : Idx) (w : Watch) (t : Time) : Snapshot where
  index := i
  tag := w.tag.getD 0
  outcome := w.outcome
  cause := w.cause
  failing := w.failing
  concludedAt := t
  cycles := w.cycles

/-- A watch may be armed: every line its steps name is enabled in the engine line view (R43, R86). -/
def linesEnabled (view : Vector LineView 24) (w : Watch) : Bool := w.lines.all fun l => view[l].enabled

/-- An ARM action on `x` is carried out: `x` is IDLE, has the acting watch's owner, and its lines are enabled
(R86). -/
def armActionApplies (c : Ctx) (T : Table) (w x : Idx) : Bool :=
  (T.watch x).state = .idle && (T.watch x).owner = (T.watch w).owner && linesEnabled c.view (T.watch x)

/-- A CANCEL action on `x` is carried out: `x` is live and has the acting watch's owner (R87). -/
def cancelActionApplies (T : Table) (w x : Idx) : Bool :=
  (T.watch x).live && (T.watch x).owner = (T.watch w).owner

/-- A group action of watch `w` on group `g` reaches the watch at `j`: its group and its owner (R88, R89). -/
def inGroupOf (T : Table) (w : Idx) (g : Group) (j : Idx) : Bool :=
  (T.watch j).group = some g && (T.watch j).owner = (T.watch w).owner

/-- A HOLD_GROUP action examines one index (R88): the table, and whether any watch was held so far. -/
def holdMember (w : Idx) (g : Group) (x : Table × Bool) (j : Idx) : Table × Bool :=
  if inGroupOf x.1 w g j && (x.1.watch j).runs then (holdWatch x.1 j, true) else x

/-- A RELEASE_GROUP action examines one index (R89): the table, and whether any watch was released so far. -/
def releaseMember (rec : Concluder) (c : Ctx) (w : Idx) (g : Group) (x : Table × Bool) (j : Idx) :
    Table × Bool :=
  if inGroupOf x.1 w g j && (x.1.watch j).state = .held then (releaseWatch rec c x.1 j, true) else x

/-- A group action's end: skipped if it affected no watch (R88, R89). -/
def groupDone (w : Idx) (x : Table × Bool) : Table := if x.2 then x.1 else skipAction x.1 w

/-- Carries out one action of watch `w`, concluded at `t` (R82 to R89). -/
def runAction (rec : Concluder) (c : Ctx) (w : Idx) (t : Time) (T : Table) (a : Action) : Table :=
  match a with
  | .notify =>
    if (T.watch w).route = .none then skipAction T w
    else T.sendNotice (.post (T.watch w).route (snapshotOf w (T.watch w) t))
  | .outSet o => T.sendOut (.action .set o w)
  | .outClear o => T.sendOut (.action .clear o w)
  | .outRelease o => T.sendOut (.action .release o w)
  | .arm x => if armActionApplies c T w x then armWatch rec c T x t else skipAction T w
  | .cancel x => if cancelActionApplies T w x then rec T x .cancelled .action t else skipAction T w
  | .holdGroup g => groupDone w (allWatches.foldl (holdMember w g) (T, false))
  | .releaseGroup g => groupDone w (allWatches.foldl (releaseMember rec c w g) (T, false))

/-- The action list an outcome selects (R78). -/
def Watch.actionsFor (w : Watch) : WOutcome → List Action
  | .met => w.metActions
  | .missed | .broken => w.failActions
  | .cancelled | .none => []

/-! ### Deliveries (R70, R90, R91) -/

/-- A wanted outcome is met by an outcome (R70). -/
def Wanted.accepts : Wanted → WOutcome → Bool
  | .met, .met => true
  | .fail, .missed | .fail, .broken => true
  | .any, .met | .any, .missed | .any, .broken | .any, .cancelled => true
  | _, _ => false

/-- A conclusion of `w` with outcome `o` at time `t` is delivered to one entry of its follower snapshot: skipped as
R90 states, else judged by window and wanted outcome (R70). -/
def deliver (rec : Concluder) (c : Ctx) (w : Idx) (o : WOutcome) (t : Time) (T : Table)
    (entry : Idx × BitVec 16) : Table :=
  let f := entry.1
  let x := T.watch f
  if x.epoch ≠ entry.2 || !x.runs then T
  else
    match x.step with
    | some d =>
      match d.kind with
      | .follow tgt wanted =>
        if tgt = w then
          let start := x.stepStart.getD 0
          let τ := if atOrAfter t start then t else start
          judged rec T f d start τ
            (if wanted.accepts o then completeStep rec c T f τ else rec T f .broken .chain τ)
        else T
      | _ => T
    | none => T

/-! ### The conclusion procedure (R76, R78, R93) -/

/-- The record of a conclusion (R76). -/
def Watch.concludedWith (w : Watch) (o : WOutcome) (cause : Cause) (t : Time) : Watch :=
  { w with
    outcome := o, cause := cause
    failing := if o = .missed || o = .broken then some w.current else none
    concludedAt := some t, state := .concluded, heldFrom := none }

/-- The record of a cyclic re-arm (R93 steps 1 to 3). -/
def Watch.rearmed (w : Watch) (t : Time) : Watch :=
  { w with cycles := satInc w.cycles, armedAt := some t, state := .armed }

/-- A conclusion with its whole cascade (R76, R78): the record, the follower snapshot, the step end, the actions,
the deliveries, and the re-arm of a CYCLIC watch that concluded MET (R93). -/
def concludeWith (rec : Concluder) (c : Ctx) : Concluder := fun T i o cause t =>
  let T1 := T.modify i fun w => w.concludedWith o cause t
  let snap := (T1.followersOf i).map fun f => (f, (T1.watch f).epoch)
  let T2 := endStep T1 i
  let T3 := ((T2.watch i).actionsFor o).foldl (runAction rec c i t) T2
  let T4 := snap.foldl (deliver rec c i o t) T3
  if o = .met && (T4.watch i).rep = .cyclic then
    beginStep rec c (T4.modify i fun w => w.rearmed t) i 0 t
  else T4

/-- The conclusion procedure with `n` further levels of nesting. At level 0 a conclusion is recorded and its step
ended, and no more: the levels of Config.cascadeDepth are never used up (R96; log 13). -/
def conclude (c : Ctx) : Nat → Concluder
  | 0 => fun T i o cause t => endStep (T.modify i fun w => w.concludedWith o cause t) i
  | n + 1 => concludeWith (conclude c n) c

/-- The conclusion procedure of a happening. -/
def concluder (c : Ctx) : Concluder := conclude c Config.cascadeDepth

/-! ### Offering an edge (R59 to R68) -/

/-- An edge leads into a level (R67). -/
def EdgeDir.level : EdgeDir → Level
  | .rise => .high
  | .fall => .low

/-- An EDGE step counts an edge (R66). -/
def EdgeKind.counts : EdgeKind → EdgeDir → Bool
  | .rise, .rise => true
  | .fall, .fall => true
  | .any, _ => true
  | _, _ => false

/-- The record of a watch whose step made progress: ARMED becomes RUNNING (R72). -/
def Watch.progressed (w : Watch) : Watch := if w.state = .armed then { w with state := .running } else w

/-- A counted edge of an EDGE step, once its window accepts it (R66). Where the step goes on with edges still to count,
a LATE entry that is reached leaves (R74), and one that is not reached stays (R53, R129): DESIGN CHOICE, log 27. -/
def countEdge (rec : Concluder) (c : Ctx) (T : Table) (i : Idx) (stamp : Time) : Table :=
  let T1 := T.modify i fun w => { w.progressed with remaining := w.remaining - 1 }
  if (T1.watch i).remaining = 0 then completeStep rec c T1 i stamp else T1.dropReachedLate c.now i

/-- The entering edge of a SPAN step, once its window accepts it (R67). -/
def enterSpan (c : Ctx) (T : Table) (i : Idx) (mx : Option Duration) (stamp : Time) : Table :=
  let T1 := T.modify i fun w => { w.progressed with spanStart := some stamp, phase := .inSpan }
  let T2 := T1.dropDeadline i
  match mx with
  | some m => T2.addDeadline c.now i (after stamp m + 1) .spanLong
  | none => T2

/-- A span as last span records it: at most 16,777,215 (R68). -/
def clampSpan (s : Time) : Duration := if s.toNat ≤ Config.maxSpan.toNat then s.setWidth 24 else Config.maxSpan

/-- The leaving edge of a SPAN step in IN_SPAN (R68). -/
def leaveSpan (rec : Concluder) (c : Ctx) (T : Table) (i : Idx) (mn mx : Option Duration) (stamp : Time) :
    Table :=
  let start := (T.watch i).spanStart.getD 0
  let s := stamp - start
  let T1 := T.modify i fun w => { w with lastSpan := some (clampSpan s) }
  if mn.any (fun m => s.toNat < m.toNat) then rec T1 i .broken .short stamp
  else
    match mx with
    | some m =>
      if m.toNat < s.toNat then rec T1 i .broken .long (after start m + 1) else completeStep rec c T1 i stamp
    | none => completeStep rec c T1 i stamp

/-- A TRIGGER entry is served an edge that falls within its step and carries no loss mark (R66 to R68). -/
def serveTrigger (rec : Concluder) (c : Ctx) (T : Table) (i : Idx) (dir : EdgeDir) (stamp : Time) : Table :=
  let w := T.watch i
  match w.step with
  | some d =>
    match d.kind with
    | .edge _ _ kind _ =>
      if kind.counts dir then judged rec T i d (w.stepStart.getD 0) stamp (countEdge rec c T i stamp) else T
    | .span _ v mn mx =>
      match w.phase with
      | .waitEntry =>
        if dir.level = v then judged rec T i d (w.stepStart.getD 0) stamp (enterSpan c T i mx stamp) else T
      | .inSpan => if dir.level = v then T else leaveSpan rec c T i mn mx stamp
      | .none => T
    | .delay _ | .follow _ _ => T
  | none => T

/-- One entry of an edge's snapshot: the watch, its role and its epoch (R59). -/
structure SnapEntry where
  watch : Idx
  role : Role
  epoch : BitVec 16
  deriving DecidableEq, Repr

/-- Serves one snapshot entry (R60 to R64): skipped when its watch has a new epoch or does not run; broken by a
loss mark; broken through a GUARD entry; judged through a TRIGGER entry, unless its stamp precedes the step. -/
def serveEntry (rec : Concluder) (c : Ctx) (e : Edge) (T : Table) (x : SnapEntry) : Table :=
  let w := T.watch x.watch
  if w.epoch ≠ x.epoch || !w.runs then T
  else
    let start := w.stepStart.getD 0
    let within := atOrAfter e.stamp start
    let occ := if within then e.stamp else start
    if e.lost then rec T x.watch .broken .lostEdge occ
    else
      match x.role with
      | .guard => rec T x.watch .broken .guard occ
      | .trigger => if within then serveTrigger rec c T x.watch e.dir e.stamp else T

/-- The snapshot of a line's listener list (R59). -/
def snapshotLine (T : Table) (l : Line) : List SnapEntry :=
  (T.listenersOf l).map fun x => { watch := x.watch, role := x.role, epoch := (T.watch x.watch).epoch }

/-- Serves an edge to a line's listeners, by the snapshot taken of them (R59 to R64). -/
def serveLine (c : Ctx) (T : Table) (l : Line) (e : Edge) : Table :=
  (snapshotLine T l).foldl (serveEntry (concluder c) c e) T

/-! ### Expiries (R71, R130) -/

/-- A watch reacts to the expiry of its deadline (R71). -/
def expire (c : Ctx) (T : Table) (d : Deadline) : Table :=
  match d.kind with
  | .late => concluder c T d.watch .missed .late d.due
  | .delayEnd => completeStep (concluder c) c T d.watch d.due
  | .spanLong => concluder c T d.watch .broken .long d.due

end Sys2Proof.Machine
end

