-- ==== Sys2Proof/Machine/Lines.lean ====
section
/-! DEFINITION. The line family: SET_LINE, SET_LINE_APPLY, LEVEL_REPORT, MASK_LINE, UNMASK_LINE, READ_LINE,
READ_LEVELS and SET_SAMPLING, and the sampling of the lines (spec/07 R134 to R151). -/

namespace Sys2Proof.Machine

open Sys2Proof

/-- The opposite level. -/
def Level.flip : Level → Level
  | .low => .high
  | .high => .low

/-- The logical level of a pin under a polarity (R136). -/
def logical (pol : Polarity) (pin : Bool) : Level :=
  match pol, pin with
  | .normal, true | .inverted, false => .high
  | .normal, false | .inverted, true => .low

/-! ### SET_LINE -/

/-- A line is in use (R141): it has a listener, or a live watch names it in some step. -/
def lineInUse (T : Table) (l : Line) : Bool :=
  !(T.listenersOf l).isEmpty || allWatches.any fun i => (T.watch i).live && (T.watch i).lines.contains l

/-- The configuration the operands of a SET_LINE stand for, or none when one is outside its values (R141). -/
def readConfig (enable polarity filter : Byte) : Option LineConfig := do
  let en ← onOffOf enable
  let pol ← polarityOf polarity
  let f ← indexOf 16 filter
  some { enable := en, polarity := pol, filter := BitVec.ofFin f }

/-- A SET_LINE alters a line when it changes its enable or its polarity (R141; log 14). -/
def alters (before after : LineConfig) : Bool :=
  before.enable ≠ after.enable || before.polarity ≠ after.polarity

/-- A SET_LINE would disable a line or change its polarity (R141 check 3). -/
def disturbs (before after : LineConfig) : Bool :=
  (before.enable && !after.enable) || before.polarity ≠ after.polarity

/-- The engine's handling of a SET_LINE that passes its checks (R142). -/
def forwardLine (p : Port) (l : Line) (cfg : LineConfig) (s : State) : State :=
  let v := s.view l
  let v1 : LineView :=
    if alters (s.line l).config cfg then { enabled := false, delivered := .low, mark := true }
    else { v with mark := true }
  { s.setView l v1 with linePath := s.linePath ++ [{ line := l, config := cfg, reply := some p }] }

/-- SET_LINE at the engine (R141, R142). -/
def setLineAt (p : Port) (line enable polarity filter : Byte) (s : State) : State × Option Response :=
  match indexOf 24 line, readConfig enable polarity filter with
  | some l, some cfg =>
    if (s.view l).mark then (s, some (.refuse .lineInUse))
    else if lineInUse s.engine.table l && disturbs (s.line l).config cfg then (s, some (.refuse .lineInUse))
    else (forwardLine p l cfg s, none)
  | _, _ => (s, some (.refuse .badArgument))

/-- SET_LINE (R141, R142). -/
def execSetLine (p : Port) (line enable polarity filter : Byte) (s : State) : Host.Outcome State Fault Refusal :=
  atEngine p (.setLine p line enable polarity filter) s (setLineAt p line enable polarity filter)

/-- The accepted level after a configuration change (R144). -/
def levelAfter (x : LineState) (cfg : LineConfig) (pin : Bool) : Level :=
  if !cfg.enable then .low
  else if !x.config.enable then logical cfg.polarity pin
  else if x.config.polarity ≠ cfg.polarity then x.accepted.flip
  else x.accepted

/-- The Line Unit applies a forwarded configuration and sends its level report (R144). -/
def applyConfig (x : LineState) (cfg : LineConfig) (pin : Bool) (now : Time) (reply : Option Port) : LineState :=
  { x with
    queue := [], config := cfg, progress := 0, accepted := levelAfter x cfg pin, edgeCount := 0, lostCount := 0
    report := some {
      enable := cfg.enable, level := levelAfter x cfg pin, stamp := now, reply := reply
      lost := !x.queue.isEmpty && x.config.enable && cfg.enable && x.config.polarity = cfg.polarity } }

/-- SET_LINE_APPLY (R144): the Line Unit takes the head of the configuration path, with the pins as they stand, which
is at the operand (log 5). With nothing forwarded nothing changes (log 2). -/
def execSetLineApply (pins : BitVec 24) (s : State) : Host.Outcome State Fault Refusal :=
  match s.linePath with
  | r :: rest =>
    .next (({ s with linePath := rest, pins := pins } : State).setLine r.line
      (applyConfig (s.line r.line) r.config (pins.getLsbD r.line.val) s.time.now r.reply))
  | [] => .next s

/-- The engine takes a level report (R145 steps 1 to 4): the view, the listeners of a loss mark, and the mark. -/
def takeReport (s : State) (l : Line) (r : LevelReport) : State :=
  let s1 := s.setView l { s.view l with enabled := r.enable, delivered := r.level }
  let s2 :=
    if r.lost then
      s1.setEngine (s1.engine.withTable
        (serveLine s1.ctx s1.engine.table l { dir := .rise, stamp := r.stamp, lost := true }))
    else s1
  s2.setView l { s2.view l with mark := false }

/-- LEVEL_REPORT (R145): the engine takes the report waiting on the line's edge path and completes the SET_LINE. With
no report waiting nothing changes (log 2). -/
def execLevelReport (l : Line) (s : State) : Host.Outcome State Fault Refusal :=
  match (s.line l).report with
  | some r =>
    .next ((takeReport (s.setLine l { s.line l with report := none }) l r).reply r.reply (.ok [r.level.code]))
  | none => .next s

/-! ### Masks, reads and sampling -/

/-- A command that names a line, taken by the Line Unit; a line above 23 is refused (R147 to R149). -/
def onLine (line : Byte) (k : Line → State × Response) (s : State) : State × Response :=
  match indexOf 24 line with
  | some l => k l
  | none => (s, .refuse .badArgument)

/-- MASK_LINE at the Line Unit (R147). -/
def maskAt (line : Byte) (s : State) : State × Response :=
  onLine line (fun l =>
    let x := s.line l
    (if x.masked then s else s.setLine l { x with masked := true, progress := 0 }, .ok [yesNo x.masked])) s

/-- MASK_LINE (R147). -/
def execMaskLine (p : Port) (line : Byte) (s : State) : Host.Outcome State Fault Refusal :=
  atBlock p (.maskLine p line) s (maskAt line)

/-- UNMASK_LINE at the Line Unit (R148): the filter resumes from progress 0. -/
def unmaskAt (line : Byte) (s : State) : State × Response :=
  onLine line (fun l =>
    let x := s.line l
    (if x.masked then s.setLine l { x with masked := false, progress := 0 } else s, .ok [yesNo x.masked])) s

/-- UNMASK_LINE (R148). -/
def execUnmaskLine (p : Port) (line : Byte) (s : State) : Host.Outcome State Fault Refusal :=
  atBlock p (.unmaskLine p line) s (unmaskAt line)

/-- READ_LINE (R149). -/
def execReadLine (p : Port) (line : Byte) (s : State) : Host.Outcome State Fault Refusal :=
  atBlock p (.readLine p line) s fun s => onLine line (fun l => (s, .ok (lineBytes (s.line l) (s.view l)))) s

/-- The line map of the accepted levels (R150, R197). -/
def levelsMap (u : LineUnit) : Nat := mapNumber (u.lines.toList.map fun x => x.accepted = .high)

/-- READ_LEVELS (R150). -/
def execReadLevels (p : Port) (s : State) : Host.Outcome State Fault Refusal :=
  atBlock p (.readLevels p) s fun s => (s, .ok (bytesOf 3 (levelsMap s.lineUnit)))

/-- SET_SAMPLING at the Line Unit (R138). -/
def setSamplingAt (divider : Byte) (s : State) : State × Response :=
  if divider = 0 then (s, .refuse .badArgument)
  else
    ({ s with lineUnit := {
        lines := s.lineUnit.lines.map fun x => { x with progress := 0 }
        sampleDivider := divider, sampleCounter := 0 } }, .ok [])

/-- SET_SAMPLING (R138). -/
def execSetSampling (p : Port) (divider : Byte) (s : State) : Host.Outcome State Fault Refusal :=
  atBlock p (.setSampling p divider) s (setSamplingAt divider)

/-- The edge a change to a level makes (R137). -/
def Level.edge : Level → EdgeDir
  | .high => .rise
  | .low => .fall

/-- An edge enters a queue at its tail (R139), or at a full queue is dropped: the newest entry is marked and takes
its kind, and keeps its stamp (R140). -/
def enqueue (q : List Edge) (e : Edge) : List Edge :=
  if q.length < Config.queueDepth then q ++ [e]
  else
    match q.getLast? with
    | some newest => q.dropLast ++ [{ newest with dir := e.dir, lost := true }]
    | none => q

/-- The filter accepts a change to a level (R137, R139, R140). -/
def acceptLevel (x : LineState) (v : Level) (now : Time) : LineState :=
  { x with
    accepted := v, progress := 0, edgeCount := x.edgeCount + 1
    queue := enqueue x.queue { dir := v.edge, stamp := now, lost := false }
    lostCount := if x.queue.length < Config.queueDepth then x.lostCount else satInc x.lostCount }

/-- One sample of one line (R135, R137): an enabled, unmasked line's reading passes its filter. -/
def sampleLine (x : LineState) (pin : Bool) (now : Time) : LineState :=
  if x.config.enable && !x.masked then
    let v := logical x.config.polarity pin
    if v = x.accepted then { x with progress := 0 }
    else if x.config.filter.toNat + 1 ≤ x.progress + 1 then acceptLevel x v now
    else { x with progress := x.progress + 1 }
  else x

/-- One REFCLK period in the Line Unit (R135): the sample counter rises by one, and when it reaches the sample divider
it returns to 0 and every line is sampled. -/
def LineUnit.period (u : LineUnit) (pins : BitVec 24) (now : Time) : LineUnit :=
  if u.sampleCounter + 1 < u.sampleDivider.toNat then { u with sampleCounter := u.sampleCounter + 1 }
  else { u with
    sampleCounter := 0
    lines := Vector.ofFn fun l : Line => sampleLine (u.lines[l]) (pins.getLsbD l.val) now }

/-- The REFCLK periods before the one in which the sample counter reaches the sample divider. -/
def LineUnit.beforeSample (u : LineUnit) : Nat := u.sampleDivider.toNat - 1 - u.sampleCounter

end Sys2Proof.Machine
end

