-- ==== Sys2Proof/Machine/Time.lean ====
section
/-! DEFINITION. The time family: SET_TIMEBASE, TIMEBASE_DIVIDER_APPLY, TIME_HOLD, TIME_RUN and READ_TIME (spec/06 R118
to R126), and the REFCLK period of the Timebase. -/

namespace Sys2Proof.Machine

open Sys2Proof

/-- Any watch is live (R123). -/
def anyLive (T : Table) : Bool := allWatches.any fun i => (T.watch i).live

/-- SET_TIMEBASE at the engine (R123): checked, then forwarded on the configuration path. -/
def setTimebaseAt (p : Port) (divider : BitVec 16) (s : State) : State × Option Response :=
  if divider = 0 then (s, some (.refuse .badArgument))
  else if anyLive s.engine.table then (s, some (.refuse .stateConflict))
  else ({ s with dividerPath := s.dividerPath ++ [{ divider := divider, reply := some p }] }, none)

/-- SET_TIMEBASE (R123). -/
def execSetTimebase (p : Port) (divider : BitVec 16) (s : State) : Host.Outcome State Fault Refusal :=
  atEngine p (.setTimebase p divider) s (setTimebaseAt p divider)

/-- TIMEBASE_DIVIDER_APPLY (R123): the Timebase takes the forwarded divider and clears the partial count; the
command completes. With none forwarded nothing changes (log 2). -/
def execTimebaseDividerApply (s : State) : Host.Outcome State Fault Refusal :=
  match s.dividerPath with
  | r :: rest =>
    .next (({ s with
      dividerPath := rest
      time := { s.time with divider := r.divider, partialCount := 0 } } : State).reply r.reply (.ok []))
  | [] => .next s

/-- The Timebase takes a hold state and answers the one before (R121). -/
def setHold (h : HoldState) (s : State) : State × Response :=
  ({ s with time := { s.time with hold := h } }, .ok [s.time.hold.code])

/-- TIME_HOLD (R121). -/
def execTimeHold (p : Port) (s : State) : Host.Outcome State Fault Refusal := atBlock p (.timeHold p) s (setHold .held)

/-- TIME_RUN (R121). -/
def execTimeRun (p : Port) (s : State) : Host.Outcome State Fault Refusal := atBlock p (.timeRun p) s (setHold .running)

/-- READ_TIME (R125). -/
def execReadTime (p : Port) (s : State) : Host.Outcome State Fault Refusal :=
  atBlock p (.readTime p) s fun s => (s, .ok (bytesOf 6 s.time.now.toNat ++ [s.time.hold.code]))

/-- One REFCLK period in the Timebase (R118): in RUNNING the partial count rises by one, and when it reaches the
divider it returns to 0 and `now` rises by one; in HELD nothing is counted. -/
def Timebase.period (t : Timebase) : Timebase :=
  match t.hold with
  | .running =>
    if t.partialCount + 1 < t.divider.toNat then { t with partialCount := t.partialCount + 1 }
    else { t with partialCount := 0, now := t.now + 1 }
  | .held => t

/-- The REFCLK periods in RUNNING before the one in which the partial count reaches the divider. -/
def Timebase.beforeTick (t : Timebase) : Nat := t.divider.toNat - 1 - t.partialCount

end Sys2Proof.Machine
end

