-- ==== Sys2Proof/Machine/Clock.lean ====
section
/-! DEFINITION. The passing of REFCLK: one period drives the Timebase and the Line Unit (R118, R135, R196), TICK and
SAMPLE let the periods pass that are left until the happening they name. -/

namespace Sys2Proof.Machine

open Sys2Proof

/-- The Timebase's share of a REFCLK period. -/
def State.timePeriod (s : State) : State := { s with time := s.time.period }

/-- The Line Unit's share of a REFCLK period, with the pins as they stand; it stamps with `now` (R120, R137). -/
def State.linePeriod (s : State) : State := { s with lineUnit := s.lineUnit.period s.pins s.time.now }

/-- One REFCLK period: a tick and a sample fall in it exactly when their counts reach their dividers. Where both fall
in one period the tick is first here; SAMPLE has the other order (R120 allows either; log 3, log 4). -/
def State.refclk (s : State) : State := s.timePeriod.linePeriod

/-- `n` REFCLK periods. -/
def State.refclks : Nat → State → State
  | 0, s => s
  | n + 1, s => State.refclks n s.refclk

/-- TICK (R118; log 4): the REFCLK periods pass up to the one in which the partial count reaches the divider. In HELD
none is counted, so there is no tick to take and nothing changes (log 2). -/
def execTick (s : State) : Host.Outcome State Fault Refusal :=
  match s.time.hold with
  | .running => .next (s.refclks s.time.beforeTick).refclk
  | .held => .next s

/-- SAMPLE (R135; log 4, log 5): the pins come to the given levels, and the REFCLK periods pass up to the one in which
the sample counter reaches the sample divider, where every enabled, unmasked line is read. -/
def execSample (pins : BitVec 24) (s : State) : Host.Outcome State Fault Refusal :=
  .next (({ s with pins := pins }).refclks s.lineUnit.beforeSample).linePeriod.timePeriod

end Sys2Proof.Machine
end

