-- ==== Sys2Proof/Machine/Definition.lean ====
section
/-! DEFINITION. The table and definition family: CREATE, ADD_STEP, DROP_STEP, SET_ACTIONS, SET_OPTIONS, SEAL, REOPEN,
RETIRE, FIND, READ_WATCH, SCAN and READ_POOL (spec/01 and spec/02). -/

namespace Sys2Proof.Machine

open Sys2Proof

/-- CREATE at the engine (R10). -/
def createAt (p : Port) (tag : BitVec 16) (e : Engine) : Engine × Response :=
  if tag = 0 then (e, .refuse .badArgument)
  else if e.tags.any (fun x => x.1 = tag) then (e, .refuse .tagInUse)
  else
    match e.table.lowestFree with
    | none => (e, .refuse .tableFull)
    | some i =>
      ({ e with
          table := e.table.setWatch i { Watch.free with state := .draft, tag := some tag, owner := some p }
          tags := e.tags ++ [(tag, i)] },
        .ok [indexByte i])

/-- CREATE (R10). -/
def execCreate (p : Port) (tag : BitVec 16) (s : State) : Host.Outcome State Fault Refusal :=
  atEngine p (.create p tag) s (onEngine (createAt p tag))

/-- The states from which a definition command is taken (R28). -/
def isDraft (st : WState) : Bool := st = .draft

/-- ADD_STEP at the engine (R29). -/
def addStepAt (p : Port) (index : Byte) (desc : List Byte) (e : Engine) : Engine × Response :=
  onWatch e p index true isDraft fun i =>
    let n := (e.watch i).steps.length
    if Config.stepLimit ≤ n then (e, .refuse .stepLimit)
    else
      match readStep desc with
      | none => (e, .refuse .badArgument)
      | some d =>
        if e.freeSlots = 0 then (e, .refuse .poolFull)
        else
          ({ e.modify i (fun w => { w with steps := w.steps ++ [d] }) with freeSlots := e.freeSlots - 1 },
            .ok [BitVec.ofNat 8 n, BitVec.ofNat 8 (n + 1)])

/-- ADD_STEP (R29). -/
def execAddStep (p : Port) (index : Byte) (desc : List Byte) (s : State) : Host.Outcome State Fault Refusal :=
  atEngine p (.addStep p index desc) s (onEngine (addStepAt p index desc))

/-- DROP_STEP at the engine (R32). -/
def dropStepAt (p : Port) (index : Byte) (e : Engine) : Engine × Response :=
  onWatch e p index true isDraft fun i =>
    let n := (e.watch i).steps.length
    if n = 0 then (e, .refuse .stateConflict)
    else
      ({ e.modify i (fun w => { w with steps := w.steps.dropLast }) with freeSlots := e.freeSlots + 1 },
        .ok [BitVec.ofNat 8 (n - 1)])

/-- DROP_STEP (R32). -/
def execDropStep (p : Port) (index : Byte) (s : State) : Host.Outcome State Fault Refusal :=
  atEngine p (.dropStep p index) s (onEngine (dropStepAt p index))

/-- The counted actions of a SET_ACTIONS, or none when one of them is out of range (R34). -/
def readActions (n : Nat) (acts : List (Byte × Byte)) : Option (List Action) :=
  (acts.take n).mapM fun a => readAction a.1 a.2

/-- SET_ACTIONS at the engine (R34). -/
def setActionsAt (p : Port) (index side count : Byte) (acts : List (Byte × Byte)) (e : Engine) :
    Engine × Response :=
  onWatch e p index true isDraft fun i =>
    if side ≠ 1 && side ≠ 2 then (e, .refuse .badArgument)
    else if Config.actionLimit < count.toNat then (e, .refuse .badArgument)
    else
      match readActions count.toNat acts with
      | none => (e, .refuse .badArgument)
      | some as =>
        (e.modify i (fun w => if side = 1 then { w with metActions := as } else { w with failActions := as }),
          .ok [count])

/-- SET_ACTIONS (R34). -/
def execSetActions (p : Port) (index side count : Byte) (acts : List (Byte × Byte)) (s : State) :
    Host.Outcome State Fault Refusal :=
  atEngine p (.setActions p index side count acts) s (onEngine (setActionsAt p index side count acts))

/-- SET_OPTIONS at the engine (R35). -/
def setOptionsAt (p : Port) (index rep group route : Byte) (e : Engine) : Engine × Response :=
  onWatch e p index true isDraft fun i =>
    match repeatOf rep, groupOf group, routeOf route with
    | some r, some g, some t =>
      (e.modify i (fun w => { w with rep := r, group := g, route := t }), .ok [])
    | _, _, _ => (e, .refuse .badArgument)

/-- SET_OPTIONS (R35). -/
def execSetOptions (p : Port) (index rep group route : Byte) (s : State) : Host.Outcome State Fault Refusal :=
  atEngine p (.setOptions p index rep group route) s (onEngine (setOptionsAt p index rep group route))

/-! ### SEAL (R36 to R39) -/

/-- The faults SEAL reports (R39). -/
inductive SealFault where
  | noSteps
  | sameLines
  | guardConflict
  | windowOrder
  | spanOrder
  | windowOnDelay
  | selfTarget
  | foreignTarget
  | cyclicFirstFollow
  deriving DecidableEq, Repr

/-- The detail code of a fault (R212). -/
def SealFault.code : SealFault → Byte
  | .noSteps => 1
  | .sameLines => 2
  | .guardConflict => 3
  | .windowOrder => 4
  | .spanOrder => 5
  | .windowOnDelay => 6
  | .selfTarget => 7
  | .foreignTarget => 8
  | .cyclicFirstFollow => 9

/-- The first relation within a descriptor that fails (R37). -/
def stepFault (d : StepDesc) : Option SealFault :=
  let sameLines : Bool := match d.kind with
    | .edge p (some q) _ _ => p = q
    | _ => false
  let guardConflict : Bool := d.guard.any fun g => d.triggers.contains g.1
  let windowOnDelay : Bool := match d.kind with
    | .delay _ => d.notBefore.isSome || d.notAfter.isSome
    | _ => false
  let windowOrder : Bool := match d.notBefore, d.notAfter with
    | some nb, some na => na.toNat < nb.toNat
    | _, _ => false
  let spanOrder : Bool := match d.kind with
    | .span _ _ (some mn) (some mx) => mx.toNat < mn.toNat
    | _ => false
  if sameLines then some .sameLines
  else if guardConflict then some .guardConflict
  else if windowOnDelay then some .windowOnDelay
  else if windowOrder then some .windowOrder
  else if spanOrder then some .spanOrder
  else none

/-- The fault of a watch index named in a definition (R38). -/
def targetFault (T : Table) (self x : Idx) : Option SealFault :=
  if x = self then some .selfTarget
  else if (T.watch x).state ≠ .free && (T.watch x).owner ≠ (T.watch self).owner then some .foreignTarget
  else none

/-- The first fault of a step: the relations of R37, then the target of R38. -/
def sealStep (T : Table) (i : Idx) (d : StepDesc) : Option SealFault :=
  (stepFault d).or (match d.kind with
    | .follow t _ => targetFault T i t
    | _ => none)

/-- The fault of an action: that of an ARM or CANCEL operand (R38). -/
def sealAction (T : Table) (i : Idx) : Action → Option SealFault
  | .arm x | .cancel x => targetFault T i x
  | _ => none

/-- The first fault in a list, with its position. -/
def firstFault {α : Type} (check : α → Option SealFault) : Nat → List α → Option (SealFault × Nat)
  | _, [] => none
  | k, x :: xs =>
    match check x with
    | some f => some (f, k)
    | none => firstFault check (k + 1) xs

/-- The first step is a FOLLOW step. -/
def Watch.firstIsFollow (w : Watch) : Bool :=
  match w.steps.head? with
  | some { kind := .follow _ _, .. } => true
  | _ => false

/-- The examination of a definition (R36): the first fault, its list code and its position. -/
def examine (T : Table) (i : Idx) : Option (SealFault × Byte × Nat) :=
  let w := T.watch i
  if w.steps = [] then some (.noSteps, 0, 0)
  else if w.rep = .cyclic && w.firstIsFollow then some (.cyclicFirstFollow, 1, 0)
  else
    ((firstFault (sealStep T i) 0 w.steps).map fun x => (x.1, 1, x.2)).or
      (((firstFault (sealAction T i) 0 w.metActions).map fun x => (x.1, 2, x.2)).or
        ((firstFault (sealAction T i) 0 w.failActions).map fun x => (x.1, 3, x.2)))

/-- SEAL at the engine (R36, R39). -/
def sealAt (p : Port) (index : Byte) (e : Engine) : Engine × Response :=
  onWatch e p index true isDraft fun i =>
    match examine e.table i with
    | some (f, list, pos) =>
      (e, { status := .invalidDefinition, payload := [f.code, list, BitVec.ofNat 8 pos] })
    | none => (e.modify i (fun w => { w with state := .idle }), .ok [])

/-- SEAL (R36). -/
def execSeal (p : Port) (index : Byte) (s : State) : Host.Outcome State Fault Refusal :=
  atEngine p (.seal p index) s (onEngine (sealAt p index))

/-- REOPEN at the engine (R41). -/
def reopenAt (p : Port) (index : Byte) (e : Engine) : Engine × Response :=
  onWatch e p index true (fun st => st = .idle) fun i =>
    (e.modify i (fun w => { w with state := .draft }), .ok [])

/-- REOPEN (R41). -/
def execReopen (p : Port) (index : Byte) (s : State) : Host.Outcome State Fault Refusal :=
  atEngine p (.reopen p index) s (onEngine (reopenAt p index))

/-- A live watch's current step is a FOLLOW step whose target is this watch (R11). -/
def followed (T : Table) (i : Idx) : Bool :=
  allWatches.any fun j => (T.watch j).live && (T.watch j).followTarget = some i

/-- RETIRE at the engine (R11, R12). -/
def retireAt (p : Port) (index : Byte) (e : Engine) : Engine × Response :=
  onWatch e p index true (fun st => st = .draft || st = .idle || st = .concluded) fun i =>
    if followed e.table i then (e, .refuse .inUse) else (e.freeWatch i, .ok [])

/-- RETIRE (R11, R12). -/
def execRetire (p : Port) (index : Byte) (s : State) : Host.Outcome State Fault Refusal :=
  atEngine p (.retire p index) s (onEngine (retireAt p index))

/-! ### Lookup -/

/-- FIND at the engine (R14). -/
def findAt (tag : BitVec 16) (e : Engine) : Response :=
  if tag = 0 then .refuse .badArgument
  else
    match e.tags.find? (fun x => x.1 = tag) with
    | none => .refuse .tagNotFound
    | some (_, i) => .ok [indexByte i, ownerCode (e.watch i).owner, (e.watch i).state.code]

/-- FIND (R14). -/
def execFind (p : Port) (tag : BitVec 16) (s : State) : Host.Outcome State Fault Refusal :=
  atEngine p (.find p tag) s (onEngine fun e => (e, findAt tag e))

/-- The payload of a READ_WATCH part, or none for an unknown part or a step that is not there (R16 to R18). -/
def readPart (T : Table) (i : Idx) (part k : Byte) : Option (List Byte) :=
  let w := T.watch i
  if part = 1 then some (summaryBytes w)
  else if part = 2 then some (progressBytes w (T.deadlines.find? fun d => d.watch = i))
  else if part = 3 then some (resultsBytes w)
  else if part = 4 then (if k.toNat < Config.stepLimit then (w.steps[k.toNat]?).map StepDesc.bytes else none)
  else if part = 5 then some (actionsBytes w)
  else none

/-- READ_WATCH at the engine (R16). -/
def readWatchAt (p : Port) (index part k : Byte) (e : Engine) : Engine × Response :=
  onWatch e p index false (fun _ => true) fun i =>
    match readPart e.table i part k with
    | some bytes => (e, .ok bytes)
    | none => (e, .refuse .badArgument)

/-- READ_WATCH (R16 to R18). -/
def execReadWatch (p : Port) (index part k : Byte) (s : State) : Host.Outcome State Fault Refusal :=
  atEngine p (.readWatch p index part k) s (onEngine (readWatchAt p index part k))

/-- SCAN at the engine (R15, R207). -/
def scanAt (first count : Byte) (e : Engine) : Response :=
  if 63 < first.toNat then .refuse .badArgument
  else if count = 0 || 16 < count.toNat then .refuse .badArgument
  else
    let run := (allWatches.drop first.toNat).take count.toNat
    .ok (BitVec.ofNat 8 run.length :: run.map fun i => scanByte (e.watch i))

/-- SCAN (R15). -/
def execScan (p : Port) (first count : Byte) (s : State) : Host.Outcome State Fault Refusal :=
  atEngine p (.scan p first count) s (onEngine fun e => (e, scanAt first count e))

/-- The number of FREE watch indices (R42). -/
def Table.freeCount (T : Table) : Nat := allWatches.countP fun i => (T.watch i).state = .free

/-- READ_POOL (R42). -/
def execReadPool (p : Port) (s : State) : Host.Outcome State Fault Refusal :=
  atEngine p (.readPool p) s
    (onEngine fun e => (e, .ok [BitVec.ofNat 8 e.freeSlots, BitVec.ofNat 8 e.table.freeCount]))

end Sys2Proof.Machine
end

