-- ==== Sys2Proof/Machine/Notices.lean ====
section
/-! DEFINITION. The notice family: NOTICE_POST, NOTICE_PURGE, TAKE_NOTICE, PEEK_NOTICES, ACK_NOTICE and
SET_NOTICE_ENABLE (spec/09 R166 to R176). -/

namespace Sys2Proof.Machine

open Sys2Proof

/-- A route names a port's pending set (R83). -/
def Route.names : Route → Port → Bool
  | .a, .A | .b, .B | .both, _ => true
  | _, _ => false

/-- A post placed in one pending set (R168): a new, unmarked entry, or a replacement with the overrun mark. -/
def NoticeState.place (x : NoticeState) (n : Snapshot) : NoticeState :=
  { x with pending := x.pending.set n.index (some { snap := n, overrun := x.pending[n.index].isSome }) }

/-- The entry for an index leaves a pending set (R169, R172). -/
def NoticeState.remove (x : NoticeState) (i : Idx) : NoticeState := { x with pending := x.pending.set i none }

/-- The entry with the lowest index (R170). -/
def NoticeState.lowest (x : NoticeState) : Option Notice := allWatches.findSome? fun i => x.pending[i]

/-- NOTICE_POST (R168): the head of the notice request path is a post. With another head, or none, nothing changes
(log 2). -/
def execNoticePost (s : State) : Host.Outcome State Fault Refusal :=
  match s.engine.table.noticePath with
  | .post route n :: rest =>
    let f (p : Port) : NoticeState := if route.names p then (s.notice p).place n else s.notice p
    .next { s.setNoticePath rest with notices := { a := f .A, b := f .B } }
  | _ => .next s

/-- NOTICE_PURGE (R169): the head of the notice request path is a purge. With another head, or none, nothing changes
(log 2). -/
def execNoticePurge (s : State) : Host.Outcome State Fault Refusal :=
  match s.engine.table.noticePath with
  | .purge i :: rest =>
    .next { s.setNoticePath rest with
      notices := { a := (s.notice .A).remove i, b := (s.notice .B).remove i } }
  | _ => .next s

/-- TAKE_NOTICE at the Notice Unit (R170, R208). -/
def takeNoticeAt (p : Port) (s : State) : State × Response :=
  match (s.notice p).lowest with
  | some n =>
    let x := (s.notice p).remove n.snap.index
    (s.setNotice p x, .ok (noticeBytes n x.count))
  | none => (s, .ok (List.replicate 17 0))

/-- TAKE_NOTICE (R170). -/
def execTakeNotice (p : Port) (s : State) : Host.Outcome State Fault Refusal :=
  atBlock p (.takeNotice p) s (takeNoticeAt p)

/-- PEEK_NOTICES (R171). -/
def execPeekNotices (p : Port) (s : State) : Host.Outcome State Fault Refusal :=
  atBlock p (.peekNotices p) s fun s =>
    let x := s.notice p
    (s, .ok (bytesOf 8 (mapNumber (x.pending.toList.map Option.isSome)) ++ [BitVec.ofNat 8 x.count]))

/-- ACK_NOTICE at the Notice Unit (R172). -/
def ackNoticeAt (p : Port) (index : Byte) (s : State) : State × Response :=
  match indexOf 64 index with
  | some i => (s.setNotice p ((s.notice p).remove i), .ok [yesNo (s.notice p).pending[i].isSome])
  | none => (s, .refuse .badArgument)

/-- ACK_NOTICE (R172). -/
def execAckNotice (p : Port) (index : Byte) (s : State) : Host.Outcome State Fault Refusal :=
  atBlock p (.ackNotice p index) s (ackNoticeAt p index)

/-- SET_NOTICE_ENABLE at the Notice Unit (R174). -/
def setNoticeEnableAt (p : Port) (enable : Byte) (s : State) : State × Response :=
  match onOffOf enable with
  | some en => (s.setNotice p { s.notice p with enable := en }, .ok [yesNo (s.notice p).enable])
  | none => (s, .refuse .badArgument)

/-- SET_NOTICE_ENABLE (R174). -/
def execSetNoticeEnable (p : Port) (enable : Byte) (s : State) : Host.Outcome State Fault Refusal :=
  atBlock p (.setNoticeEnable p enable) s (setNoticeEnableAt p enable)

end Sys2Proof.Machine
end

