-- ==== Sys2Proof/Machine/Outputs.lean ====
section
/-! DEFINITION. The output family: the happenings of the Output Unit at the head of the output request path, PULSE_END,
and the host output commands at the engine (spec/08 R152 to R165). -/

namespace Sys2Proof.Machine

open Sys2Proof

/-- The Output Unit changes one output and evaluates its active state at the end of the happening (R155, R156,
R157). -/
def State.changeOutput (s : State) (o : Output) (f : OutputState → OutputState) : State :=
  s.setOutput o ((s.output o).settle (f (s.output o)) s.time.now)

/-- The effect of an output action of watch `w` on an output (R158). -/
def applyAction (kind : OutKind) (w : Idx) (now : Time) (x : OutputState) : OutputState :=
  match kind, x.mode with
  | .set, .latch => { x with drivers := x.drivers.set w true }
  | .set, .pulse => { x with pulseEnd := some (now + x.width.setWidth 48) }
  | .clear, .latch => { x with drivers := x.drivers.set w false }
  | .clear, .pulse => { x with pulseEnd := none }
  | .release, _ => { x with drivers := Vector.replicate 64 false, pulseEnd := none }

/-- The Output Unit takes an output action of the given kind from the head of the path; with another request at the
head, or none, nothing changes (log 2). -/
def takeAction (kind : OutKind) (s : State) : Host.Outcome State Fault Refusal :=
  match s.engine.table.outPath with
  | .action k o w :: rest =>
    if k = kind then .next ((s.setOutPath rest).changeOutput o (applyAction kind w s.time.now)) else .next s
  | _ => .next s

/-- OUT_SET (R158). -/
def execOutSet (s : State) : Host.Outcome State Fault Refusal := takeAction .set s

/-- OUT_CLEAR (R158). -/
def execOutClear (s : State) : Host.Outcome State Fault Refusal := takeAction .clear s

/-- OUT_RELEASE (R158). -/
def execOutRelease (s : State) : Host.Outcome State Fault Refusal := takeAction .release s

/-- A purge leaves an output's driver set (R159). -/
def purgeOutput (w : Idx) (now : Time) (x : OutputState) : OutputState :=
  x.settle { x with drivers := x.drivers.set w false } now

/-- OUTPUT_PURGE (R159): the index leaves every driver set. -/
def execOutputPurge (s : State) : Host.Outcome State Fault Refusal :=
  match s.engine.table.outPath with
  | .purge w :: rest =>
    .next { s.setOutPath rest with outputs := s.outputs.map (purgeOutput w s.time.now) }
  | _ => .next s

/-- PULSE_END (R154): the pulse end that the tick has made reached is made absent (log 10). With no reached pulse end
nothing changes (log 2). -/
def execPulseEnd (o : Output) (s : State) : Host.Outcome State Fault Refusal :=
  if (s.output o).pulseEnd.any (reached s.time.now) then
    .next (s.changeOutput o fun x => { x with pulseEnd := none })
  else .next s

/-! ### Host output commands at the engine (R160) -/

/-- A host output command is checked and forwarded on the output request path, or refused (R160). -/
def forwardOutput (r : Option OutReq) (s : State) : State × Option Response :=
  match r with
  | some r => (s.setEngine (s.engine.withTable (s.engine.table.sendOut r)), none)
  | none => (s, some (.refuse .badArgument))

/-- The request of a SET_OUTPUT, or none when an operand is outside its values (R161). -/
def readSetOutput (p : Port) (output mode : Byte) (width : BitVec 16) (polarity : Byte) : Option OutReq := do
  let o ← indexOf 8 output
  let m ← outModeOf mode
  let q ← outPolarityOf polarity
  if width = 0 then none else some (.setOutput p o m width q)

/-- SET_OUTPUT (R161). -/
def execSetOutput (p : Port) (output mode : Byte) (width : BitVec 16) (polarity : Byte) (s : State) :
    Host.Outcome State Fault Refusal :=
  atEngine p (.setOutput p output mode width polarity) s
    (forwardOutput (readSetOutput p output mode width polarity))

/-- The request of a FORCE_OUTPUT, or none when an operand is outside its values (R162). -/
def readForceOutput (p : Port) (output force : Byte) : Option OutReq := do
  let o ← indexOf 8 output
  let f ← forceOf force
  some (.forceOutput p o f)

/-- FORCE_OUTPUT (R162). -/
def execForceOutput (p : Port) (output force : Byte) (s : State) : Host.Outcome State Fault Refusal :=
  atEngine p (.forceOutput p output force) s (forwardOutput (readForceOutput p output force))

/-- RELEASE_OUTPUT (R163). -/
def execReleaseOutput (p : Port) (output : Byte) (s : State) : Host.Outcome State Fault Refusal :=
  atEngine p (.releaseOutput p output) s (forwardOutput ((indexOf 8 output).map fun o => .releaseOutput p o))

/-- READ_OUTPUT (R164). -/
def execReadOutput (p : Port) (output : Byte) (s : State) : Host.Outcome State Fault Refusal :=
  atEngine p (.readOutput p output) s (forwardOutput ((indexOf 8 output).map fun o => .readOutput p o))

/-! ### Host output commands at the unit -/

/-- SET_OUTPUT_APPLY (R161). -/
def execSetOutputApply (s : State) : Host.Outcome State Fault Refusal :=
  match s.engine.table.outPath with
  | .setOutput p o mode width pol :: rest =>
    .next (((s.setOutPath rest).changeOutput o fun x =>
      { x with
        drivers := Vector.replicate 64 false, pulseEnd := none
        mode := mode, width := width, polarity := pol }).complete p (.ok []))
  | _ => .next s

/-- FORCE_OUTPUT_APPLY (R162). -/
def execForceOutputApply (s : State) : Host.Outcome State Fault Refusal :=
  match s.engine.table.outPath with
  | .forceOutput p o force :: rest =>
    .next (((s.setOutPath rest).changeOutput o fun x => { x with force := force }).complete p
      (.ok [(s.output o).force.code]))
  | _ => .next s

/-- RELEASE_OUTPUT_APPLY (R163). -/
def execReleaseOutputApply (s : State) : Host.Outcome State Fault Refusal :=
  match s.engine.table.outPath with
  | .releaseOutput p o :: rest =>
    .next (((s.setOutPath rest).changeOutput o fun x =>
      { x with drivers := Vector.replicate 64 false, pulseEnd := none }).complete p
        (.ok [BitVec.ofNat 8 (s.output o).members]))
  | _ => .next s

/-- The pulse remaining: the pulse end minus `now` while a pulse runs, else 0 (R164). -/
def OutputState.pulseRemaining (x : OutputState) (now : Time) : Nat :=
  match x.pulseEnd with
  | some e => if x.pulseRuns now then (e - now).toNat else 0
  | none => 0

/-- The READ_OUTPUT response (R164, R210). -/
def outputBytes (x : OutputState) (now : Time) : List Byte :=
  [x.mode.code] ++ bytesOf 2 x.width.toNat ++ [x.polarity.code, x.force.code, yesNo (x.active now)] ++
    bytesOf 8 (mapNumber x.drivers.toList) ++ bytesOf 2 (x.pulseRemaining now) ++ bytesOf 2 x.count.toNat

/-- READ_OUTPUT_APPLY (R164). -/
def execReadOutputApply (s : State) : Host.Outcome State Fault Refusal :=
  match s.engine.table.outPath with
  | .readOutput p o :: rest =>
    .next ((s.setOutPath rest).complete p (.ok (outputBytes (s.output o) s.time.now)))
  | _ => .next s

end Sys2Proof.Machine
end

