-- ==== Sys2Proof/Machine/Ports.lean ====
section
/-! DEFINITION. The ports (spec/10 R177 to R192): a transaction on a port's bus, from its opening to its end, and what
COMMAND, FRAME_RECEIVED, IDENTIFY, FETCH, ABORT, STATUS and UNKNOWN_TRANSFER_CODE do with it. -/

namespace Sys2Proof.Machine

open Sys2Proof

/-- The port makes a response itself and goes to HOLDING with it (R187, R188). -/
def State.answer (s : State) (p : Port) (r : Response) : State :=
  s.setPort p { s.port p with phase := .holding, held := some r }

/-- A sound command is placed in execution and passed to its block (R187): through the arbiter, where its request
waits (R191), or directly. -/
def State.place (s : State) (p : Port) (c : Instr) : State :=
  s.setPort p { s.port p with
    phase := .executing, inExec := some c, request := if c.isDirect then none else some .first }

/-- The port takes a sound command (R187): IDENTIFY it answers itself at once (R188, R192). -/
def State.takeCommand (s : State) (p : Port) (c : Instr) : State :=
  if c = .identify p then s.answer p (.ok identifyBytes) else s.place p c

/-! ### A transaction on a port's bus -/

/-- What a port returns after the status byte, judged once in a transaction (R189): the held response frame in
HOLDING, else nothing but FFh. -/
def PortState.judge (x : PortState) : FetchProgress :=
  match x.phase, x.held with
  | .holding, some r => { rest := r.bytes, live := true }
  | _, _ => { rest := [], live := false }

/-- A transaction opens on a free bus (R178, R180). Port A and a read of port B capture the status byte (R181), and a
read of port B judges what it returns (R189). -/
def State.openBus (s : State) (p : Port) (o : Opening) : State :=
  let x := s.port p
  let y : PortState := { x with bus := .opened, out := [] }
  if x.bus = .free then
    s.setPort p
      (match p with
        | .A => { y with capture := some (s.statusByte .A) }
        | .B =>
          if o.first = .read then { y with capture := some (s.statusByte .B), fetch := some x.judge } else y)
  else s

/-- The code byte is complete, and the port acts on it (R178, R186). The host sends none in a read of port B, which
has a status byte captured before its first byte. -/
def State.codeByte (s : State) (p : Port) (act : State → State) : State :=
  let x := s.port p
  if x.bus = .opened && (p = .A || x.capture = none) then act (s.setPort p { x with bus := .running }) else s

/-- The last bit of the captured status byte has left the port (R182): on port A after the code byte is complete, on
port B as the first byte of the read. -/
def State.shiftStatus (s : State) (p : Port) : State :=
  let x := s.port p
  match x.capture with
  | some c => if p = .B || x.bus = .running then s.setPort p (x.shiftOut c) else s
  | none => s

/-- The first byte of a transaction, whole or one of its moments. -/
def State.headByte (s : State) (p : Port) (o : Opening) (act : State → State) : HeadPart → State
  | .whole =>
    if (s.port p).bus = .free then ((s.openBus p o).codeByte p act).shiftStatus p else s
  | .opened => s.openBus p o
  | .code => s.codeByte p act
  | .shifted => s.shiftStatus p

/-- The bytes a port returns while a host sends `n` further bytes: FFh on port A (R179; log 28), nothing on
port B. -/
def filler (p : Port) (n : Nat) : List Byte :=
  match p with
  | .A => List.replicate n 0xFF
  | .B => []

/-- The port is past the first byte of a transaction, whose status byte, if any, has left. -/
def PortState.pastFirst (x : PortState) : Bool := x.bus = .running && x.capture = none

/-- `n` further bytes of a transaction: a fetch returns the rest of the held frame and then FFh (R189), any other
transaction ignores them and returns FFh on port A (R179). The bytes of a frame are received (R183) and are those of
FRAME_RECEIVED. -/
def State.clockBytes (s : State) (p : Port) (n : Nat) : State :=
  let x := s.port p
  if x.pastFirst && x.phase ≠ .receiving then
    s.setPort p
      (match x.fetch with
        | some f =>
          { x with
            out := x.out ++ f.rest.take n ++ List.replicate (n - f.rest.length) 0xFF
            fetch := some { f with rest := f.rest.drop n } }
        | none => { x with out := x.out ++ filler p n })
  else s

/-- A port whose transaction has ended: a status byte cut short clears nothing (R182). -/
def PortState.idleBus (x : PortState) : PortState := { x with bus := .free, capture := none, fetch := none }

/-- A fetch has returned the held frame to the last bit of its CRC (R189). -/
def PortState.fetched (x : PortState) : Bool := x.fetch.any fun f => f.live && f.rest.isEmpty

/-- A transaction ends. A complete fetch frees the held response (R189). A COMMAND transaction that ends here has no
frame, which is faulty (R183). -/
def State.stopBus (s : State) (p : Port) : State :=
  let x := s.port p
  if x.bus = .free then s
  else if x.phase = .receiving then s.setPort p { x.idleBus with phase := .ready, frameMark := true }
  else if x.fetched then s.setPort p { x.idleBus with phase := .ready, held := none }
  else s.setPort p x.idleBus

/-- A transaction, whole or in part, whose first byte acts as given. -/
def State.transact (s : State) (p : Port) (o : Opening) (act : State → State) : TransactionPart → State
  | .whole n =>
    if (s.port p).bus = .free then ((s.headByte p o act .whole).clockBytes p n).stopBus p else s
  | .head h => s.headByte p o act h
  | .clock n => s.clockBytes p n
  | .stop => s.stopBus p

/-- A transaction reaches the port that hears it, and no other (R179, R180). What its first byte says must be what the
command is named for (R178; log 2). -/
def onBus (o : Opening) (fits : FirstByte → Bool) (s : State) (k : Port → State) :
    Host.Outcome State Fault Refusal :=
  match o.heardBy s.portBAddress with
  | some p => if fits o.first then .next (k p) else .next s
  | none => .next s

/-! ### COMMAND and its frame -/

/-- The COMMAND code is complete (R186). -/
def State.beginFrame (s : State) (p : Port) : State :=
  let x := s.port p
  match x.phase with
  | .ready => s.setPort p { x with phase := .receiving }
  | .holding => s.setPort p { x with phase := .receiving, held := none, lostMark := true }
  | .executing => s.setPort p { x with refusedMark := true }
  | .receiving => s

/-- COMMAND (R186). -/
def execCommand (t : CommandHead) (s : State) : Host.Outcome State Fault Refusal :=
  onBus t.opening (fun b => b = .transfer .command) s fun p =>
    s.headByte p t.opening (fun s => s.beginFrame p) t.part

/-- The port is past the first byte of a transaction that is no fetch, so the bytes that follow may be a frame's. -/
def State.takesFrame (s : State) (p : Port) : Bool := (s.port p).pastFirst && (s.port p).fetch = none

/-- A transaction ends after `n` bytes of a frame, which port A answers with FFh (R179). -/
def State.endFrame (s : State) (p : Port) (n : Nat) : State :=
  s.setPort p { s.port p with bus := .free, out := (s.port p).out ++ filler p n }

/-- FRAME_RECEIVED (R183, R187): a COMMAND transaction ends, and a port that was receiving judges the frame. In any
other state the bytes were ignored (R186, R194). -/
def execFrameReceived (p : Port) (bytes : List Byte) (s : State) : Host.Outcome State Fault Refusal :=
  if s.takesFrame p then
    let s1 := s.endFrame p bytes.length
    if (s.port p).phase = .receiving then
      match readFrame p bytes with
      | .faulty => .next (s1.setPort p { s1.port p with phase := .ready, frameMark := true })
      | .unknown => .next (s1.answer p (.refuse .unknownCommand))
      | .badLength => .next (s1.answer p (.refuse .badLength))
      | .sound c => .next (s1.takeCommand p c)
    else .next s1
  else .next s

/-- IDENTIFY (R192): the port, receiving, takes the three bytes of an IDENTIFY frame and makes the response itself
(log 15). -/
def execIdentify (p : Port) (s : State) : Host.Outcome State Fault Refusal :=
  if s.takesFrame p && (s.port p).phase = .receiving then .next ((s.endFrame p 3).takeCommand p (.identify p))
  else .next s

/-! ### FETCH, ABORT, STATUS and unknown codes -/

/-- The FETCH code is complete: port A judges what it returns (R189). A port B write that carries it has no effect
(R180). -/
def State.beginFetch (s : State) (p : Port) : State :=
  match p with
  | .A => s.setPort .A { s.port .A with fetch := some (s.port .A).judge }
  | .B => s

/-- FETCH of a port (R189): the code on port A, or a read of port B. -/
def execFetch (p : Port) (o : Opening) (part : TransactionPart) (s : State) : Host.Outcome State Fault Refusal :=
  onBus o (fun b => o.bus = p && (b = .transfer .fetch || b = .read)) s fun q =>
    s.transact q o (fun s => s.beginFetch q) part

/-- The stop request of a port's sweep record is set (R117). -/
def State.requestStop (s : State) (p : Port) : State := s.setSweep p { s.sweep p with stop := true }

/-- The ABORT code is complete (R190). -/
def State.beginAbort (s : State) (p : Port) : State :=
  let x := s.port p
  match x.phase with
  | .ready | .receiving => s
  | .holding => s.setPort p { x with phase := .ready, held := none }
  | .executing =>
    if x.abort then s
    else
      let s1 := s.setPort p { x with abort := true }
      if x.inExec.any Instr.isSweep then s1.requestStop p else s1

/-- ABORT (R190). -/
def execAbort (t : Transaction) (s : State) : Host.Outcome State Fault Refusal :=
  onBus t.opening (fun b => b = .transfer .abort) s fun p =>
    s.transact p t.opening (fun s => s.beginAbort p) t.part

/-- STATUS (R178, R180, R181): the status byte alone; its code changes nothing. A read of port B that continues past
the status byte is a FETCH and not this command. -/
def execStatus (o : Opening) (part : TransactionPart) (s : State) : Host.Outcome State Fault Refusal :=
  onBus o (fun b => b = .transfer .status || b = .read && part.further = 0) s fun p => s.transact p o id part

/-- UNKNOWN_TRANSFER_CODE (R178): a first byte that is no transfer code sets the FRAME mark; the rest of the
transaction is ignored. -/
def execUnknownTransferCode (o : Opening) (part : TransactionPart) (s : State) : Host.Outcome State Fault Refusal :=
  onBus o (fun b => b = .unknown) s fun p =>
    s.transact p o (fun s => s.setPort p { s.port p with frameMark := true }) part

end Sys2Proof.Machine
end

