-- ==== Sys2Proof/Machine/Reset.lean ====
section
/-! DEFINITION. DEVICE_RESET and HARDWARE_RESET (R19, R47, R126, R151, R165, R176, R193 to R195). -/

namespace Sys2Proof.Machine

open Sys2Proof

/-- A line at DEVICE_RESET (R151): its queue is emptied and its filter progress and counts are cleared; a waiting
level report stays, but no longer has a command to complete (R145, R194). -/
def LineState.deviceReset (x : LineState) : LineState :=
  { x with
    queue := [], progress := 0, edgeCount := 0, lostCount := 0
    report := x.report.map fun r => { r with reply := none } }

/-- A line's view at DEVICE_RESET (R47): the enabled item and the mark stay; the delivered level is the accepted
level, or LOW on a line whose enabled item is no. -/
def LineView.deviceReset (v : LineView) (accepted : Level) : LineView :=
  { v with delivered := if v.enabled then accepted else .low }

/-- The engine at DEVICE_RESET (R19, R108, R193), with both paths emptied (R165, R176). -/
def Engine.deviceReset (e : Engine) (u : LineUnit) : Engine :=
  { Engine.reset with view := Vector.ofFn fun l : Line => (e.view[l]).deviceReset (u.lines[l]).accepted }

/-- An output at DEVICE_RESET (R165): claims, pulse and count are cleared, the configuration stays. -/
def OutputState.deviceReset (x : OutputState) : OutputState :=
  { x with drivers := Vector.replicate 64 false, pulseEnd := none, count := 0 }

/-- One port's side of the Notice Unit at DEVICE_RESET (R176). -/
def NoticeState.deviceReset (x : NoticeState) : NoticeState := { x with pending := Vector.replicate 64 none }

/-- The other port at DEVICE_RESET (R194): it abandons its work, ends in READY, and a fetch in progress returns
FFh for its remaining bytes. The transaction on its bus goes on, its rest ignored. -/
def PortState.abandon (x : PortState) : PortState :=
  { x with
    phase := .ready, inExec := none, request := none, held := none, abort := false, resetMark := true
    fetch := x.fetch.map fun _ => { rest := [], live := false } }

/-- The whole part at a DEVICE_RESET issued by a port, before its response (R193). Forwarded configurations stay on
their paths, without a command to complete (R126, R151, R194). -/
def State.deviceReset (s : State) (p : Port) : State :=
  let s1 : State := { s with
    engine := s.engine.deviceReset s.lineUnit
    lineUnit := { s.lineUnit with lines := s.lineUnit.lines.map LineState.deviceReset }
    dividerPath := s.dividerPath.map fun r => { r with reply := none }
    linePath := s.linePath.map fun r => { r with reply := none }
    outputs := s.outputs.map OutputState.deviceReset
    notices := { a := s.notices.a.deviceReset, b := s.notices.b.deviceReset } }
  (s1.setPort (otherPort p) (s.port (otherPort p)).abandon).setPort p { s.port p with resetMark := true }

/-- DEVICE_RESET (R193): taken through the arbiter; the issuing port then holds OK. -/
def execDeviceReset (p : Port) (s : State) : Host.Outcome State Fault Refusal :=
  atEngine p (.deviceReset p) s fun s => (s.deviceReset p, some (.ok []))

/-- HARDWARE_RESET (R195): every block, the ports and the arbiter take their hardware reset values, and port B samples
its address pins (R180; log 5). The event line pins are inputs and keep their levels, and the queue of waiting
commands is the model's own and stays. -/
def execHardwareReset (addr : BitVec 2) (s : State) : Host.Outcome State Fault Refusal :=
  .next { State.reset with
    portBAddress := Config.portBBase + addr.setWidth 7, pins := s.pins, pending := s.pending }

end Sys2Proof.Machine
end

