-- ==== Sys2Proof/Machine/Run.lean ====
section
/-! DEFINITION. The run family: ARM, CANCEL, HOLD, RELEASE and ACK (spec/03 R43, spec/04 R97, spec/05 R100 to R107),
and the two happenings by which runs progress: EDGE_TAKEN (R59) and DEADLINE_EXPIRY (R130). -/

namespace Sys2Proof.Machine

open Sys2Proof

/-- The response that carries a watch's state at the end of the happening (R44, R100, R105). -/
def stateResponse (e : Engine) (i : Idx) : Response := .ok [(e.watch i).state.code]

/-- A change of the table on behalf of a watch, answered with the watch's state (R44, R105). -/
def thenState (e : Engine) (T : Table) (i : Idx) : Engine × Response :=
  (e.withTable T, stateResponse (e.withTable T) i)

/-- ARM at the engine (R43, R44). -/
def armAt (p : Port) (index : Byte) (c : Ctx) (e : Engine) : Engine × Response :=
  onWatch e p index true (fun st => st = .idle) fun i =>
    if linesEnabled c.view (e.watch i) then thenState e (armWatch (concluder c) c e.table i c.now) i
    else (e, .refuse .lineDisabled)

/-- ARM (R43, R44). -/
def execArm (p : Port) (index : Byte) (s : State) : Host.Outcome State Fault Refusal :=
  atEngine p (.arm p index) s (onEngine (armAt p index s.ctx))

/-- CANCEL at the engine (R106). -/
def cancelAt (p : Port) (index : Byte) (c : Ctx) (e : Engine) : Engine × Response :=
  onWatch e p index true (fun st => st = .armed || st = .running || st = .held) fun i =>
    (e.withTable (concluder c e.table i .cancelled .host c.now), .ok [])

/-- CANCEL (R106). -/
def execCancel (p : Port) (index : Byte) (s : State) : Host.Outcome State Fault Refusal :=
  atEngine p (.cancel p index) s (onEngine (cancelAt p index s.ctx))

/-- HOLD at the engine (R100). -/
def holdAt (p : Port) (index : Byte) (e : Engine) : Engine × Response :=
  onWatch e p index true (fun st => st = .armed || st = .running) fun i => thenState e (holdWatch e.table i) i

/-- HOLD (R100). -/
def execHold (p : Port) (index : Byte) (s : State) : Host.Outcome State Fault Refusal :=
  atEngine p (.hold p index) s (onEngine (holdAt p index))

/-- RELEASE at the engine (R103, R105). -/
def releaseAt (p : Port) (index : Byte) (c : Ctx) (e : Engine) : Engine × Response :=
  onWatch e p index true (fun st => st = .held) fun i =>
    thenState e (releaseWatch (concluder c) c e.table i) i

/-- RELEASE (R103). -/
def execRelease (p : Port) (index : Byte) (s : State) : Host.Outcome State Fault Refusal :=
  atEngine p (.release p index) s (onEngine (releaseAt p index s.ctx))

/-- ACK at the engine (R97, R98). -/
def ackAt (p : Port) (index : Byte) (e : Engine) : Engine × Response :=
  onWatch e p index true (fun st => st = .concluded) fun i =>
    (e.modify i (fun w => { w with state := .idle }), .ok [])

/-- ACK (R97). -/
def execAck (p : Port) (index : Byte) (s : State) : Host.Outcome State Fault Refusal :=
  atEngine p (.ack p index) s (onEngine (ackAt p index))

/-- The engine takes an edge of a line (R47, R59): on an enabled line it sets the delivered level and serves the
listeners; on a line disabled in the view the edge is discarded (R146). -/
def takeEdge (s : State) (l : Line) (e : Edge) : State :=
  if (s.view l).enabled then
    let s1 := s.setView l { s.view l with delivered := e.dir.level }
    s1.setEngine (s1.engine.withTable (serveLine s1.ctx s1.engine.table l e))
  else s

/-- EDGE_TAKEN (R59, R139): the head edge of the line's queue, which a level report waiting on the line's edge path
stands ahead of (R145). With no edge to take nothing changes (log 2). -/
def execEdgeTaken (l : Line) (s : State) : Host.Outcome State Fault Refusal :=
  match (s.line l).report, (s.line l).queue with
  | none, e :: rest => .next (takeEdge (s.setLine l { s.line l with queue := rest }) l e)
  | _, _ => .next s

/-- DEADLINE_EXPIRY (R130): the head of the deadline list, when its due time is reached, leaves the list and its
watch reacts (R71). With no reached head nothing changes (log 2). -/
def execDeadlineExpiry (s : State) : Host.Outcome State Fault Refusal :=
  match s.engine.table.deadlines with
  | d :: rest =>
    if reached s.time.now d.due then
      .next (s.setEngine (s.engine.withTable (expire s.ctx { s.engine.table with deadlines := rest } d)))
    else .next s
  | [] => .next s

end Sys2Proof.Machine
end

