-- ==== Sys2Proof/Machine/Sweep.lean ====
section
/-! DEFINITION. Sweeps: ARM_GROUP, HOLD_GROUP, RELEASE_GROUP, CANCEL_GROUP, CLEAR_OWNED, and the later requests
SWEEP_VISIT and SWEEP_STOP (spec/05 R108 to R117). -/

namespace Sys2Proof.Machine

open Sys2Proof

/-- A watch is a member of a port's sweep: in use, owned by the port and, for a group command, of the group
(R108). -/
def isMember (T : Table) (p : Port) (g : Option Group) (i : Idx) : Bool :=
  (T.watch i).state ≠ .free && (T.watch i).owner = some p && (g = none || (T.watch i).group = g)

/-- The first member from an index on (R109). -/
def nextMember (T : Table) (p : Port) (g : Option Group) (next : Nat) : Option Idx :=
  allWatches.find? fun i => next ≤ i.val && isMember T p g i

/-- A CLEAR_OWNED visit frees its member: it leaves every list, its own follower list is emptied, and it is freed as
R12 frees a watch (R114, R115). -/
def clearMember (e : Engine) (i : Idx) : Engine :=
  ((e.withTable ((endStep e.table i).clearFollowers i))).freeWatch i

/-- The visit of a sweep to a member (R111 to R114), and whether the member is affected. -/
def visit (kind : SweepKind) (c : Ctx) (e : Engine) (i : Idx) : Engine × Bool :=
  let w := e.watch i
  match kind with
  | .arm =>
    if w.state = .idle && linesEnabled c.view w then
      (e.withTable (armWatch (concluder c) c e.table i c.now), true)
    else (e, false)
  | .hold => if w.runs then (e.withTable (holdWatch e.table i), true) else (e, false)
  | .release =>
    if w.state = .held then (e.withTable (releaseWatch (concluder c) c e.table i), true) else (e, false)
  | .cancel =>
    if w.live then (e.withTable (concluder c e.table i .cancelled .host c.now), true) else (e, false)
  | .clear => (clearMember e i, true)

/-- The counts of a sweep (R116). -/
def Sweep.counts (w : Sweep) : List Byte := [BitVec.ofNat 8 w.affected, BitVec.ofNat 8 w.skipped]

/-- A sweep after its visit to a member (R109 step 2). -/
def Sweep.visited (w : Sweep) (i : Idx) (affected : Bool) : Sweep :=
  { w with
    next := i.val + 1
    affected := if affected then w.affected + 1 else w.affected
    skipped := if affected then w.skipped else w.skipped + 1 }

/-- A sweep completes: its record is emptied and its response carries the counts (R109, R116). -/
def completeSweep (p : Port) (w : Sweep) (s : State) : State × Option Response :=
  (s.setSweep p SweepRecord.empty, some (.ok w.counts))

/-- One request of a sweep taken by the engine (R109): the visit to the next member, then the search for a further
one, for which the sweep places its next request. -/
def sweepHappening (p : Port) (w : Sweep) (s : State) : State × Option Response :=
  match nextMember s.engine.table p w.group w.next with
  | none => completeSweep p w s
  | some i =>
    let (e, affected) := visit w.kind s.ctx s.engine i
    let s1 := s.setEngine e
    let w1 := w.visited i affected
    match nextMember e.table p w.group w1.next with
    | none => completeSweep p w1 s1
    | some _ =>
      let s2 := s1.setSweep p { s1.sweep p with run := some w1 }
      (s2.setPort p { s2.port p with request := some .visit }, none)

/-- The engine takes a sweep's request with the stop request present (R117): no visit is made, the record is
emptied, and the sweep ends ABORTED with the counts reached. -/
def stopSweep (p : Port) (s : State) : State × Option Response :=
  let counts := match (s.sweep p).run with
    | some w => w.counts
    | none => [0, 0]
  (s.setSweep p SweepRecord.empty, some { status := .aborted, payload := counts })

/-- The engine takes a sweep's first request (R108). -/
def startSweep (p : Port) (kind : SweepKind) (group : Option Group) (s : State) : State × Option Response :=
  sweepHappening p { kind := kind, group := group, next := 0, affected := 0, skipped := 0 } s

/-- The engine takes the first request of a group command: the stop request first, then the group check (R108). -/
def startGroup (p : Port) (kind : SweepKind) (group : Byte) (s : State) : State × Option Response :=
  if (s.sweep p).stop then stopSweep p s
  else
    match indexOf 8 group with
    | some g => startSweep p kind (some g) s
    | none => (s, some (.refuse .badArgument))

/-- ARM_GROUP (R108, R111). -/
def execArmGroup (p : Port) (group : Byte) (s : State) : Host.Outcome State Fault Refusal :=
  atEngine p (.armGroup p group) s (startGroup p .arm group)

/-- HOLD_GROUP (R108, R112). -/
def execHoldGroup (p : Port) (group : Byte) (s : State) : Host.Outcome State Fault Refusal :=
  atEngine p (.holdGroup p group) s (startGroup p .hold group)

/-- RELEASE_GROUP (R108, R112). -/
def execReleaseGroup (p : Port) (group : Byte) (s : State) : Host.Outcome State Fault Refusal :=
  atEngine p (.releaseGroup p group) s (startGroup p .release group)

/-- CANCEL_GROUP (R108, R113). -/
def execCancelGroup (p : Port) (group : Byte) (s : State) : Host.Outcome State Fault Refusal :=
  atEngine p (.cancelGroup p group) s (startGroup p .cancel group)

/-- CLEAR_OWNED (R108, R114). -/
def execClearOwned (p : Port) (s : State) : Host.Outcome State Fault Refusal :=
  atEngine p (.clearOwned p) s fun s => if (s.sweep p).stop then stopSweep p s else startSweep p .clear none s

/-- A sweep command of the port has a request waiting, and the arbiter passes it (R109, R191). -/
def State.sweepWaits (s : State) (p : Port) : Bool :=
  (s.port p).inExec.any Instr.isSweep && (s.port p).request ≠ none && s.granted p

/-- SWEEP_VISIT (R109): the engine takes a running sweep's visit request; with the stop request present it stops the
sweep (R117). With no visit request waiting nothing changes (log 2). -/
def execSweepVisit (p : Port) (s : State) : Host.Outcome State Fault Refusal :=
  if s.sweepWaits p && (s.port p).request = some .visit then
    if (s.sweep p).stop then .next (finish p (stopSweep p (s.pass p)))
    else
      match (s.sweep p).run with
      | some w => .next (finish p (sweepHappening p w (s.pass p)))
      | none => .next s
  else .next s

/-- SWEEP_STOP (R117): the engine takes a sweep's waiting request, the first or a visit, with the stop request
present. Without them nothing changes (log 2). -/
def execSweepStop (p : Port) (s : State) : Host.Outcome State Fault Refusal :=
  if s.sweepWaits p && (s.sweep p).stop then .next (finish p (stopSweep p (s.pass p))) else .next s

end Sys2Proof.Machine
end

