-- ==== Sys2Proof/Machine/Dispatch.lean ====
section
/-! DEFINITION. One arm for each command of the table, each one direct call of its meaning. -/

namespace Sys2Proof.Machine

open Sys2Proof

/-- The effect of a command on everything but the queue of waiting commands. -/
def exec (i : Instr) (s : State) : Host.Outcome State Fault Refusal :=
  match i with
  | .create p tag => Sys2Proof.Machine.execCreate p tag s
  | .addStep p index desc => Sys2Proof.Machine.execAddStep p index desc s
  | .dropStep p index => Sys2Proof.Machine.execDropStep p index s
  | .setActions p index side count acts => Sys2Proof.Machine.execSetActions p index side count acts s
  | .setOptions p index rep group route => Sys2Proof.Machine.execSetOptions p index rep group route s
  | .seal p index => Sys2Proof.Machine.execSeal p index s
  | .reopen p index => Sys2Proof.Machine.execReopen p index s
  | .retire p index => Sys2Proof.Machine.execRetire p index s
  | .find p tag => Sys2Proof.Machine.execFind p tag s
  | .readWatch p index part k => Sys2Proof.Machine.execReadWatch p index part k s
  | .scan p first count => Sys2Proof.Machine.execScan p first count s
  | .readPool p => Sys2Proof.Machine.execReadPool p s
  | .arm p index => Sys2Proof.Machine.execArm p index s
  | .cancel p index => Sys2Proof.Machine.execCancel p index s
  | .hold p index => Sys2Proof.Machine.execHold p index s
  | .release p index => Sys2Proof.Machine.execRelease p index s
  | .ack p index => Sys2Proof.Machine.execAck p index s
  | .armGroup p group => Sys2Proof.Machine.execArmGroup p group s
  | .holdGroup p group => Sys2Proof.Machine.execHoldGroup p group s
  | .releaseGroup p group => Sys2Proof.Machine.execReleaseGroup p group s
  | .cancelGroup p group => Sys2Proof.Machine.execCancelGroup p group s
  | .clearOwned p => Sys2Proof.Machine.execClearOwned p s
  | .sweepVisit p => Sys2Proof.Machine.execSweepVisit p s
  | .sweepStop p => Sys2Proof.Machine.execSweepStop p s
  | .setTimebase p divider => Sys2Proof.Machine.execSetTimebase p divider s
  | .timebaseDividerApply => Sys2Proof.Machine.execTimebaseDividerApply s
  | .timeHold p => Sys2Proof.Machine.execTimeHold p s
  | .timeRun p => Sys2Proof.Machine.execTimeRun p s
  | .readTime p => Sys2Proof.Machine.execReadTime p s
  | .tick => Sys2Proof.Machine.execTick s
  | .setLine p line enable polarity filter => Sys2Proof.Machine.execSetLine p line enable polarity filter s
  | .setLineApply pins => Sys2Proof.Machine.execSetLineApply pins s
  | .levelReport line => Sys2Proof.Machine.execLevelReport line s
  | .maskLine p line => Sys2Proof.Machine.execMaskLine p line s
  | .unmaskLine p line => Sys2Proof.Machine.execUnmaskLine p line s
  | .readLine p line => Sys2Proof.Machine.execReadLine p line s
  | .readLevels p => Sys2Proof.Machine.execReadLevels p s
  | .setSampling p divider => Sys2Proof.Machine.execSetSampling p divider s
  | .sample pins => Sys2Proof.Machine.execSample pins s
  | .edgeTaken line => Sys2Proof.Machine.execEdgeTaken line s
  | .deadlineExpiry => Sys2Proof.Machine.execDeadlineExpiry s
  | .outSet => Sys2Proof.Machine.execOutSet s
  | .outClear => Sys2Proof.Machine.execOutClear s
  | .outRelease => Sys2Proof.Machine.execOutRelease s
  | .outputPurge => Sys2Proof.Machine.execOutputPurge s
  | .pulseEnd output => Sys2Proof.Machine.execPulseEnd output s
  | .setOutput p output mode width polarity => Sys2Proof.Machine.execSetOutput p output mode width polarity s
  | .setOutputApply => Sys2Proof.Machine.execSetOutputApply s
  | .forceOutput p output force => Sys2Proof.Machine.execForceOutput p output force s
  | .forceOutputApply => Sys2Proof.Machine.execForceOutputApply s
  | .releaseOutput p output => Sys2Proof.Machine.execReleaseOutput p output s
  | .releaseOutputApply => Sys2Proof.Machine.execReleaseOutputApply s
  | .readOutput p output => Sys2Proof.Machine.execReadOutput p output s
  | .readOutputApply => Sys2Proof.Machine.execReadOutputApply s
  | .noticePost => Sys2Proof.Machine.execNoticePost s
  | .noticePurge => Sys2Proof.Machine.execNoticePurge s
  | .takeNotice p => Sys2Proof.Machine.execTakeNotice p s
  | .peekNotices p => Sys2Proof.Machine.execPeekNotices p s
  | .ackNotice p index => Sys2Proof.Machine.execAckNotice p index s
  | .setNoticeEnable p enable => Sys2Proof.Machine.execSetNoticeEnable p enable s
  | .identify p => Sys2Proof.Machine.execIdentify p s
  | .deviceReset p => Sys2Proof.Machine.execDeviceReset p s
  | .hardwareReset addr => Sys2Proof.Machine.execHardwareReset addr s
  | .command t => Sys2Proof.Machine.execCommand t s
  | .frameReceived p bytes => Sys2Proof.Machine.execFrameReceived p bytes s
  | .fetch p o part => Sys2Proof.Machine.execFetch p o part s
  | .abort t => Sys2Proof.Machine.execAbort t s
  | .status o part => Sys2Proof.Machine.execStatus o part s
  | .unknownTransferCode o part => Sys2Proof.Machine.execUnknownTransferCode o part s

end Sys2Proof.Machine
end

