-- ==== Sys2Proof/Machine/Step.lean ====
section
/-! DEFINITION. One step: the command at the front of the queue, or, with none waiting, one REFCLK period. -/

namespace Sys2Proof.Machine

open Sys2Proof

/-- One step: exec of the command at the front of the queue, on the state with the queue's rest; on an empty queue
one REFCLK period passes (log 3). -/
def step (s : State) : Host.Outcome State Fault Refusal :=
  match s.pending with
  | c :: rest => exec c { s with pending := rest }
  | [] => .next s.refclk

/-- The state with the command a table word spells put at the front of its queue; unchanged, since no row of the table
has bits (log 22). -/
def State.withFetchWord (s : State) (nbits w : Nat) : State :=
  match decodeTableWord nbits w with
  | some c => { s with pending := c :: s.pending }
  | none => s

end Sys2Proof.Machine
end

