-- ==== Sys2Proof/Safety.lean ====
section
/-! DEFINITION. The terms the claims use: what it is for a command to be taken and answered, the content of a response
field, the begin and the end of a step, a sound definition, and the invariants every step keeps. -/

namespace Sys2Proof.Machine

open Sys2Proof

/-! ### Taking and answering -/

/-- The command waits at the arbiter as the port's command in execution, and the arbiter passes it: the other port
has no request waiting, or was the one last served (R191). -/
abbrev Offered (s : State) (p : Port) (c : Instr) : Prop :=
  (s.port p).inExec = some c ∧ (s.port p).request = some .first ∧
    ((s.port (otherPort p)).request = none ∨ s.engine.lastServed = otherPort p)

/-- The port's watch `i` is in one of the given states, and the byte names it. -/
abbrev Names (s : State) (p : Port) (b : Byte) (i : Idx) (states : List WState) : Prop :=
  b.toNat = i.val ∧ (s.engine.watch i).owner = some p ∧ (s.engine.watch i).state ∈ states

/-- A port whose command completes with a response (R188, R190): it holds the response; with an abort request it
discards any response but ABORTED and is READY. -/
def PortState.answered (x : PortState) (r : Response) : PortState :=
  if x.abort = true ∧ r.status ≠ .aborted then
    { x with phase := .ready, held := none, inExec := none, request := none, abort := false }
  else { x with phase := .holding, held := some r, inExec := none, request := none, abort := false }

/-- The state with nothing changed but that the port's command has completed with a response. -/
def State.answers (s : State) (p : Port) (r : Response) : State :=
  { s with ports := s.ports.set p ((s.port p).answered r) }

/-- The same for a port that may no longer wait for the response (R194). -/
def State.answersIf (s : State) (dest : Option Port) (r : Response) : State :=
  match dest with
  | some p => s.answers p r
  | none => s

/-- The state with nothing changed but the engine, which has served the port, and that the port's command has completed
with a response. -/
def State.engineAnswers (s : State) (p : Port) (e : Engine) (r : Response) : State :=
  { s with engine := { e with lastServed := p }, ports := s.ports.set p ((s.port p).answered r) }

/-- The state with nothing changed but that the engine has taken the port's request, and the port now has the given
request waiting, or none. -/
def State.engineTook (s : State) (p : Port) (e : Engine) (next : Option Request) : State :=
  { s with engine := { e with lastServed := p }, ports := s.ports.set p { s.port p with request := next } }

/-- The commands that name a watch by index: the port, the index byte, whether the command is a mutating one (R7), and
the states from which it is taken (R11, R16, R28, R36, R41, R43, R97, R100, R103, R106). -/
def namesWatch : Instr → Option (Port × Byte × Bool × List WState)
  | .addStep p i _ | .dropStep p i | .setActions p i _ _ _ | .setOptions p i _ _ _ | .seal p i =>
    some (p, i, true, [.draft])
  | .reopen p i | .arm p i => some (p, i, true, [.idle])
  | .retire p i => some (p, i, true, [.draft, .idle, .concluded])
  | .cancel p i => some (p, i, true, [.armed, .running, .held])
  | .hold p i => some (p, i, true, [.armed, .running])
  | .release p i => some (p, i, true, [.held])
  | .ack p i => some (p, i, true, [.concluded])
  | .readWatch p i _ _ => some (p, i, false, [.draft, .idle, .armed, .running, .held, .concluded])
  | _ => none

/-- A number as a field of `n` bytes, most significant byte first (R197). -/
def field (n v : Nat) : List Byte := (List.range n).map fun k => BitVec.ofNat 8 (v / 256 ^ (n - 1 - k))

/-- A map of marks as one number: bit `k` stands for item `k` (R197). -/
def markMap {n : Nat} (marks : Fin n → Bool) : Nat := ∑ k : Fin n, if marks k then 2 ^ k.val else 0

/-- One byte of a step descriptor as ADD_STEP examines it (R198, R202): a reserved byte, a reserved flag, and a value
byte whose presence flag is clear count as 0, whatever the host sent there. -/
def examinedByte (bytes : List Byte) (k : Nat) : Byte :=
  let b (j : Nat) : Byte := bytes.getD j 0
  let flag (n : Nat) : Bool := (b 1).getLsbD n
  let edge : Bool := b 0 = 1
  let span : Bool := b 0 = 2
  let delay : Bool := b 0 = 3
  let held : Bool := match k with
    | 0 => true
    | 2 | 3 => flag 0
    | 4 | 5 | 6 => flag 1
    | 7 | 8 | 9 => flag 2
    | 10 => !delay
    | 11 => !delay && (!edge || flag 3)
    | 12 | 13 => edge
    | 14 | 15 | 16 => delay || span && flag 4
    | 17 | 18 | 19 => span && flag 5
    | _ => false
  if k = 1 then b 1 &&& (if edge then 0x0F else if span then 0x37 else 0x07) else if held then b k else 0

/-- The 20 bytes of a step descriptor as ADD_STEP examines them. -/
def examinedBytes (bytes : List Byte) : List Byte := (List.range 20).map (examinedByte bytes)

/-! ### Transactions on a bus -/

/-- The port hears the transaction (R179, R180): port A the one it is selected for, port B one with its address in
bits 7 to 1 of the address byte. -/
def Hears (s : State) (p : Port) : Opening → Prop
  | .select _ => p = .A
  | .start address _ => p = .B ∧ address.toNat / 2 = s.portBAddress.toNat

/-- The first byte the host sends, or none in a read of port B: bit 0 of the address byte (R180). -/
def sentCode : Opening → Option Byte
  | .select code => some code
  | .start address code => if address.toNat % 2 = 1 then none else some code

/-- The row of the table that a transaction's first byte names (R178), for that byte whole or in part. -/
def headRow (o : Opening) (h : HeadPart) : Instr :=
  match sentCode o with
  | none => .status o (.head h)
  | some code =>
    if code = 0xA0 then .command { opening := o, part := h }
    else if code = 0xA1 then .fetch o.bus o (.head h)
    else if code = 0xA2 then .abort { opening := o, part := .head h }
    else if code = 0xA3 then .status o (.head h)
    else .unknownTransferCode o (.head h)

/-- The row of a transaction that carries no frame, for the whole of it or a part; a read of port B is a FETCH. -/
def transactionRow (o : Opening) (part : TransactionPart) : Instr :=
  match sentCode o with
  | none => .fetch .B o part
  | some code =>
    if code = 0xA1 then .fetch o.bus o part
    else if code = 0xA2 then .abort { opening := o, part := part }
    else if code = 0xA3 then .status o part
    else .unknownTransferCode o part

/-- What a fetch returns after the status byte, by the port's state as it is judged (R189). -/
def PortState.returned (x : PortState) : FetchProgress :=
  match x.held with
  | some r => if x.phase = .holding then { rest := r.bytes, live := true } else { rest := [], live := false }
  | none => { rest := [], live := false }

/-! ### Samples -/

/-- One sample of a line at `now`, its pin at the given level (R135, R136, R137, R139, R140): `x` before it, `y`
after. -/
def LineSampled (pin : Bool) (now : Time) (x y : LineState) : Prop :=
  let reading : Level := if (pin = true ↔ x.config.polarity = .normal) then .high else .low
  let kind : EdgeDir := if reading = .high then .rise else .fall
  let read : Prop := x.config.enable = true ∧ x.masked = false
  (¬read → y = x) ∧
  (read → reading = x.accepted → y = { x with progress := 0 }) ∧
  (read → reading ≠ x.accepted → x.progress < x.config.filter.toNat → y = { x with progress := x.progress + 1 }) ∧
  (read → reading ≠ x.accepted → x.config.filter.toNat ≤ x.progress →
    (x.queue.length < 2 → y = { x with
      accepted := reading, progress := 0, edgeCount := x.edgeCount + 1
      queue := x.queue ++ [{ dir := kind, stamp := now, lost := false }] }) ∧
    (∀ a b, x.queue = [a, b] → y = { x with
      accepted := reading, progress := 0, edgeCount := x.edgeCount + 1
      queue := [a, { b with dir := kind, lost := true }]
      lostCount := if x.lostCount = 0xFF then 0xFF else x.lostCount + 1 }))

/-- So many samples of a line in turn, `now` and its pin standing still. -/
inductive LineSampledTimes (pin : Bool) (now : Time) : Nat → LineState → LineState → Prop
  | none (x : LineState) : LineSampledTimes pin now 0 x x
  | more (n : Nat) (x y z : LineState) : LineSampledTimes pin now n x y → LineSampled pin now y z →
    LineSampledTimes pin now (n + 1) x z

/-! ### The begin and the end of a step -/

/-- The entries a watch on step `d` has in a line's listener list (R55). -/
def StepDesc.entriesOn (d : StepDesc) (i : Idx) (l : Line) : List Listener :=
  (d.triggers.flatMap fun x => if x = l then [{ watch := i, role := .trigger }] else []) ++
    if d.guard.map Prod.fst = some l then [{ watch := i, role := .guard }] else []

/-- The phase a step begins in (R50). -/
def StepDesc.firstPhase (d : StepDesc) : Phase :=
  match d.kind with
  | .span _ _ _ _ => .waitEntry
  | _ => .none

/-- The remaining count a step begins with (R50). -/
def StepDesc.firstCount (d : StepDesc) : Byte :=
  match d.kind with
  | .edge _ _ _ n => n
  | _ => 0

/-- The deadline of a step begun at `t` (R50, R53). -/
def StepDesc.deadlineFrom (d : StepDesc) (i : Idx) (t : Time) : Option Deadline :=
  match d.kind with
  | .delay len => some { watch := i, due := t + len.setWidth 48, kind := .delayEnd }
  | _ => d.notAfter.map fun na => { watch := i, due := t + na.setWidth 48 + 1, kind := .late }

/-- The target of a FOLLOW step. -/
def StepDesc.target (d : StepDesc) : Option Idx :=
  match d.kind with
  | .follow t _ => some t
  | _ => none

/-- The guard of a step, if it has one, holds in the engine line view (R52). -/
abbrev GuardHolds (view : Vector LineView 24) (d : StepDesc) : Prop :=
  d.guard.all fun g => view[g.1].delivered = g.2

/-- The FOLLOW target of a step, if it has one, is in use with the watch's owner (R51). -/
abbrev TargetFits (T : Table) (i : Idx) (d : StepDesc) : Prop :=
  d.target.all fun x => (T.watch x).state ≠ .free && (T.watch x).owner = (T.watch i).owner

/-- Step `k`, which is `d`, of watch `i` has begun at `t` and stands (R49 to R53): `T` before, `T'` after. -/
structure StepBegun (c : Ctx) (T T' : Table) (i : Idx) (k : Nat) (t : Time) (d : StepDesc) : Prop where
  watch : T'.watch i = { T.watch i with
    epoch := (T.watch i).epoch + 1, stepStart := some t, current := k, phase := d.firstPhase
    remaining := d.firstCount, spanStart := none }
  others : ∀ j, j ≠ i → T'.watch j = T.watch j
  lines : ∀ l, T'.listenersOf l = T.listenersOf l ++ d.entriesOn i l
  followers : ∀ x, T'.followersOf x = T.followersOf x ++ if d.target = some x then [i] else []
  deadlines : T'.deadlines = match d.deadlineFrom i t with
    | some x => insertDeadline c.now x T.deadlines
    | none => T.deadlines
  paths : T'.outPath = T.outPath ∧ T'.noticePath = T.noticePath

/-- The step of watch `i` has ended (R58): it stands in no listener list, in no list of its target, and has no
deadline; nothing else has changed. -/
structure StepEnded (T T' : Table) (i : Idx) : Prop where
  watches : T'.watches = T.watches
  lines : ∀ l, T'.listenersOf l = (T.listenersOf l).filter fun x => x.watch ≠ i
  followers : ∀ x, T'.followersOf x =
    if (T.watch i).followTarget = some x then (T.followersOf x).filter fun j => j ≠ i else T.followersOf x
  deadlines : T'.deadlines = T.deadlines.filter fun d => d.watch ≠ i
  paths : T'.outPath = T.outPath ∧ T'.noticePath = T.noticePath

/-- A watch before its conclusion and its record after it (R76). -/
def Watch.ended (w : Watch) (o : WOutcome) (cause : Cause) (t : Time) : Watch :=
  { w with
    outcome := o, cause := cause, concludedAt := some t, state := .concluded, heldFrom := none
    failing := match o with
      | .missed | .broken => some w.current
      | _ => none }

/-- A watch that a RELEASE_GROUP action of watch `w` on group `g` releases, as the table stands (R89). -/
abbrev ReleaseMember (T : Table) (w : Idx) (g : Group) (i : Idx) : Prop :=
  (T.watch i).group = some g ∧ (T.watch i).owner = (T.watch w).owner ∧ (T.watch i).state = .held

/-- A RELEASE_GROUP action examines the indices from one on, each once and as the earlier releases left it, releases the
members it finds and lists them (R89). -/
inductive ReleasePass (rec : Concluder) (c : Ctx) (w : Idx) (g : Group) :
    Nat → Table → List Idx → Table → Prop
  | done (T : Table) : ReleasePass rec c w g 64 T [] T
  | pass (i : Idx) (T T' : Table) (list : List Idx) : ¬ReleaseMember T w g i →
    ReleasePass rec c w g (i.val + 1) T list T' → ReleasePass rec c w g i.val T list T'
  | release (i : Idx) (T T' : Table) (list : List Idx) : ReleaseMember T w g i →
    ReleasePass rec c w g (i.val + 1) (releaseWatch rec c T i) list T' → ReleasePass rec c w g i.val T (i :: list) T'

/-! ### A sound definition (R36 to R38) -/

/-- The alternate line differs from the primary line. -/
abbrev LinesDiffer (d : StepDesc) : Prop :=
  match d.kind with
  | .edge p (some q) _ _ => p ≠ q
  | _ => True

/-- The guard names no trigger line. -/
abbrev GuardApart (d : StepDesc) : Prop := d.guard.all fun g => !d.triggers.contains g.1

/-- A DELAY step has no window. -/
abbrev NoWindowOnDelay (d : StepDesc) : Prop :=
  match d.kind with
  | .delay _ => d.notBefore = none ∧ d.notAfter = none
  | _ => True

/-- Two optional limits stand in order. -/
abbrev InOrder (a b : Option Duration) : Prop :=
  match a, b with
  | some x, some y => x.toNat ≤ y.toNat
  | _, _ => True

/-- The limits of a SPAN step stand in order. -/
abbrev SpanInOrder (d : StepDesc) : Prop :=
  match d.kind with
  | .span _ _ mn mx => InOrder mn mx
  | _ => True

/-- A watch index named by the definition of watch `i` is another watch, FREE or of the same owner. -/
abbrev TargetSound (T : Table) (i x : Idx) : Prop :=
  x ≠ i ∧ ((T.watch x).state = .free ∨ (T.watch x).owner = (T.watch i).owner)

/-- The first fault of a step, as its detail code, in the order of R37 and R38 (R212). -/
inductive StepFaulty (T : Table) (i : Idx) (d : StepDesc) : Byte → Prop
  | sameLines : ¬LinesDiffer d → StepFaulty T i d 2
  | guardConflict : LinesDiffer d → ¬GuardApart d → StepFaulty T i d 3
  | windowOnDelay : LinesDiffer d → GuardApart d → ¬NoWindowOnDelay d → StepFaulty T i d 6
  | windowOrder : LinesDiffer d → GuardApart d → NoWindowOnDelay d → ¬InOrder d.notBefore d.notAfter →
    StepFaulty T i d 4
  | spanOrder : LinesDiffer d → GuardApart d → NoWindowOnDelay d → InOrder d.notBefore d.notAfter →
    ¬SpanInOrder d → StepFaulty T i d 5
  | selfTarget : d.target = some i → LinesDiffer d → GuardApart d → InOrder d.notBefore d.notAfter →
    StepFaulty T i d 7
  | foreignTarget (x : Idx) : d.target = some x → x ≠ i → ¬TargetSound T i x → LinesDiffer d → GuardApart d →
    InOrder d.notBefore d.notAfter → StepFaulty T i d 8

/-- The fault of an ARM or CANCEL action, as its detail code (R38, R212). -/
inductive ActionFaulty (T : Table) (i : Idx) : Action → Byte → Prop
  | armSelf : ActionFaulty T i (.arm i) 7
  | cancelSelf : ActionFaulty T i (.cancel i) 7
  | armForeign (x : Idx) : x ≠ i → ¬TargetSound T i x → ActionFaulty T i (.arm x) 8
  | cancelForeign (x : Idx) : x ≠ i → ¬TargetSound T i x → ActionFaulty T i (.cancel x) 8

/-- The examination of SEAL finds this fault first (R36): detail code, list code and position. -/
inductive SealFinds (T : Table) (i : Idx) : Byte → Byte → Nat → Prop
  | noSteps : (T.watch i).steps = [] → SealFinds T i 1 0 0
  | cyclicFirstFollow : (T.watch i).steps ≠ [] → (T.watch i).rep = .cyclic → (T.watch i).firstIsFollow = true →
    SealFinds T i 9 1 0
  | step (k : Nat) (d : StepDesc) (code : Byte) :
    ¬((T.watch i).rep = .cyclic ∧ (T.watch i).firstIsFollow = true) → (T.watch i).steps[k]? = some d →
    (∀ j x b, j < k → (T.watch i).steps[j]? = some x → ¬StepFaulty T i x b) → StepFaulty T i d code →
    SealFinds T i code 1 k
  | metAction (k : Nat) (a : Action) (code : Byte) : (T.watch i).steps ≠ [] →
    ¬((T.watch i).rep = .cyclic ∧ (T.watch i).firstIsFollow = true) →
    (∀ x ∈ (T.watch i).steps, ∀ b, ¬StepFaulty T i x b) → (T.watch i).metActions[k]? = some a →
    (∀ j x b, j < k → (T.watch i).metActions[j]? = some x → ¬ActionFaulty T i x b) → ActionFaulty T i a code →
    SealFinds T i code 2 k
  | failAction (k : Nat) (a : Action) (code : Byte) : (T.watch i).steps ≠ [] →
    ¬((T.watch i).rep = .cyclic ∧ (T.watch i).firstIsFollow = true) →
    (∀ x ∈ (T.watch i).steps, ∀ b, ¬StepFaulty T i x b) →
    (∀ x ∈ (T.watch i).metActions, ∀ b, ¬ActionFaulty T i x b) → (T.watch i).failActions[k]? = some a →
    (∀ j x b, j < k → (T.watch i).failActions[j]? = some x → ¬ActionFaulty T i x b) → ActionFaulty T i a code →
    SealFinds T i code 3 k

/-! ### Sweeps -/

/-- The command of this sweep kind on this group, as the port sends it. -/
def sweepCommand (p : Port) : SweepKind → Option Group → Option Instr
  | .arm, some g => some (.armGroup p (indexByte g))
  | .hold, some g => some (.holdGroup p (indexByte g))
  | .release, some g => some (.releaseGroup p (indexByte g))
  | .cancel, some g => some (.cancelGroup p (indexByte g))
  | .clear, none => some (.clearOwned p)
  | _, _ => none

/-- The command takes a request of the port's sweep `w`, with no stop request (R108, R109): the first request of a
sweep command, with all counts 0, or a later visit. -/
inductive SweepTaken (s : State) (p : Port) : Instr → Sweep → Prop
  | first (c : Instr) (kind : SweepKind) (group : Option Group) : sweepCommand p kind group = some c →
    Offered s p c → (s.sweep p).stop = false →
    SweepTaken s p c { kind := kind, group := group, next := 0, affected := 0, skipped := 0 }
  | visit (c : Instr) (w : Sweep) : (s.port p).inExec = some c → c.isSweep = true →
    (s.port p).request = some .visit →
    ((s.port (otherPort p)).request = none ∨ s.engine.lastServed = otherPort p) →
    (s.sweep p).stop = false → (s.sweep p).run = some w → SweepTaken s p (.sweepVisit p) w

/-! ### Invariants -/

/-- The pool balances (R26): the free slots and the steps of all watches number 160, and a FREE watch holds none. -/
structure PoolInv (e : Engine) : Prop where
  balance : e.freeSlots + (allWatches.map fun i => (e.watch i).steps.length).sum = 160
  freeEmpty : ∀ i, (e.watch i).state = .free → (e.watch i).steps = []

/-- An entry of a line's listener list is that of its watch's current step (R55). -/
def EntryFits (l : Line) (x : Listener) (w : Watch) : Prop :=
  ∃ d, w.step = some d ∧ match x.role with
    | .trigger => l ∈ d.triggers
    | .guard => d.guard.map Prod.fst = some l

/-- The lists of the engine hold live watches alone, each once, for their current steps (R5, R55, R57, R127), and a
definition outside DRAFT names each line of a step once (R37). -/
structure ListsInv (T : Table) : Prop where
  deadlinesRun : ∀ d ∈ T.deadlines, (T.watch d.watch).runs = true
  deadlinesOnce : (T.deadlines.map Deadline.watch).Nodup
  listenersFit : ∀ l, ∀ x ∈ T.listenersOf l, (T.watch x.watch).live = true ∧ EntryFits l x (T.watch x.watch)
  listenersOnce : ∀ l, ((T.listenersOf l).map Listener.watch).Nodup
  followersFit : ∀ t, ∀ f ∈ T.followersOf t, (T.watch f).live = true ∧ (T.watch f).followTarget = some t
  followersOnce : ∀ t, (T.followersOf t).Nodup
  sealedLines : ∀ i, (T.watch i).state ≠ .free → (T.watch i).state ≠ .draft →
    ∀ d ∈ (T.watch i).steps, d.lines.Nodup

/-- The fields of a descriptor are within the ranges of R22 to R25. -/
abbrev StepKind.InRange : StepKind → Prop
  | .edge _ _ _ n => n ≠ 0
  | .span _ _ mn mx => mn ≠ some 0 ∧ mx ≠ some 0
  | .delay d => d ≠ 0
  | .follow _ _ => True

/-- The fields of a descriptor are within the ranges of R21 to R25. -/
abbrev StepDesc.InRange (d : StepDesc) : Prop := d.kind.InRange ∧ d.notBefore ≠ some 0 ∧ d.notAfter ≠ some 0

/-- An outcome with a cause it may carry (R4). -/
abbrev OutcomePair : WOutcome → Cause → Prop
  | .none, c => c = .none
  | .met, c => c = .none
  | .missed, c => c = .late
  | .broken, c => c ∈ [.early, .guard, .short, .long, .chain, .chainLost, .lostEdge]
  | .cancelled, c => c = .host ∨ c = .action

/-- The current step and the phase and remaining count of a live watch fit each other (R3, R75). -/
def ProgressFits (w : Watch) : Prop :=
  ∃ d, w.step = some d ∧ match d.kind with
    | .edge _ _ _ n => 1 ≤ w.remaining.toNat ∧ w.remaining.toNat ≤ n.toNat ∧ w.phase = .none
    | .span _ _ _ _ => w.remaining = 0 ∧ w.phase ≠ .none
    | .delay _ | .follow _ _ => w.remaining = 0 ∧ w.phase = .none

/-- A watch record is as R1 to R5, R27 and R75 allow. -/
structure WatchWf (w : Watch) : Prop where
  free : w.state = .free → w = Watch.free
  identity : w.state ≠ .free → w.tag.isSome = true ∧ w.tag ≠ some 0 ∧ w.owner.isSome = true
  counts : w.steps.length ≤ 6 ∧ w.metActions.length ≤ 4 ∧ w.failActions.length ≤ 4
  sealedCount : w.state ≠ .free → w.state ≠ .draft → w.steps ≠ []
  ranges : ∀ d ∈ w.steps, d.InRange
  held : w.heldFrom.isSome = true ↔ w.state = .held
  span : w.spanStart.isSome = true ↔ w.phase = .inSpan
  result : OutcomePair w.outcome w.cause
  failing : w.failing.isSome = true ↔ w.outcome = .missed ∨ w.outcome = .broken
  concluded : w.concludedAt.isSome = true ↔ w.outcome ≠ .none
  steps : w.current < 6 ∧ ∀ k, w.failing = some k → k < 6
  progress : w.live = true → w.stepStart.isSome = true ∧ ProgressFits w

/-- The records are well formed, and the tag map holds exactly the tags of the watches in use, none twice (R6). -/
structure RecordsInv (e : Engine) : Prop where
  records : ∀ i, WatchWf (e.watch i)
  tags : ∀ tag i, (tag, i) ∈ e.tags ↔ (e.watch i).state ≠ .free ∧ (e.watch i).tag = some tag
  once : (e.tags.map Prod.fst).Nodup

/-- A port's items fit its state (R177): a command in execution exactly in EXECUTING, and the port's own, a held
response exactly in HOLDING, an abort request and a waiting request in EXECUTING alone; a fetch that returns the held
response finds it held. A status byte is captured and a fetch judged in a transaction alone, the fetch not before the
code byte of a transaction that has one (R178, R189), and a frame is received past the first byte of a transaction
(R186). -/
structure PortWf (p : Port) (x : PortState) : Prop where
  executes : x.inExec.isSome = true ↔ x.phase = .executing
  own : ∀ c, x.inExec = some c → c.issuer = some p
  holds : x.held.isSome = true ↔ x.phase = .holding
  aborts : x.abort = true → x.phase = .executing
  waits : x.request.isSome = true → x.phase = .executing
  fetches : ∀ f, x.fetch = some f → f.live = true → x.phase = .holding
  idle : x.bus = .free → x.capture = none ∧ x.fetch = none
  opened : x.bus = .opened → p = .A ∨ x.capture = none → x.fetch = none
  receives : x.phase = .receiving → x.bus = .running ∧ x.fetch = none

/-- Both ports are well formed. -/
def PortsInv (s : State) : Prop := ∀ p, PortWf p (s.port p)

/-- A line's items are within their ranges (R134, R139); its newest queued edge leads to the accepted level (R140); a
disabled line is LOW and queues nothing; and a waiting report of a disabled line reports LOW (R144). -/
structure LineWf (x : LineState) : Prop where
  queue : x.queue.length ≤ 2
  progress : x.progress ≤ x.config.filter.toNat
  newest : ∀ e, x.queue.getLast? = some e → e.dir.level = x.accepted
  disabled : x.config.enable = false → x.accepted = .low ∧ x.queue = []
  report : ∀ r, x.report = some r → r.enable = false → r.level = .low

/-- The counters of the Timebase and of the Line Unit stand below their dividers (R118, R134), which are not 0, and
every line is well formed. -/
structure UnitsInv (s : State) : Prop where
  time : s.time.partialCount < s.time.divider.toNat
  forwarded : ∀ r ∈ s.dividerPath, r.divider ≠ 0
  sample : s.lineUnit.sampleCounter < s.lineUnit.sampleDivider.toNat
  lines : ∀ l, LineWf (s.line l)

/-- One line's configuration under way (R141, R142, R145): without the mark nothing is under way and the view agrees
with the Line Unit; with the mark exactly one configuration or report is, and it leaves a line enabled that the view
shows enabled. -/
structure LineUnderWay (s : State) (l : Line) : Prop where
  settled : (s.view l).mark = false →
    (∀ r ∈ s.linePath, r.line ≠ l) ∧ (s.line l).report = none ∧ (s.view l).enabled = (s.line l).config.enable
  marked : (s.view l).mark = true →
    (s.linePath.countP fun r => r.line = l) + (if (s.line l).report.isSome then 1 else 0) = 1
  forwarded : ∀ r ∈ s.linePath, r.line = l → (s.view l).enabled = true →
    r.config.enable = true ∧ (s.line l).config.enable = true
  reported : ∀ r, (s.line l).report = some r →
    r.enable = (s.line l).config.enable ∧ ((s.view l).enabled = true → r.enable = true)
  low : (s.view l).enabled = false → (s.view l).delivered = .low
  reportLow : ∀ r, (s.line l).report = some r → r.enable = false → r.level = .low

/-- Every line named by a step of a live watch is enabled in the engine line view (R141), and a disabled line's
delivered level is LOW (R47). -/
structure EnabledInv (s : State) : Prop where
  named : ∀ i, (s.engine.watch i).live = true → ∀ l ∈ (s.engine.watch i).lines, (s.view l).enabled = true
  underWay : ∀ l, LineUnderWay s l

/-- An output in PULSE mode has an empty driver set (R153), one in LATCH mode no pulse, and no width is 0 (R152). -/
structure OutputWf (x : OutputState) : Prop where
  pulse : x.mode = .pulse → ∀ i : Idx, x.drivers[i] = false
  latch : x.mode = .latch → x.pulseEnd = none
  width : x.width ≠ 0

/-- Every output is well formed, and no forwarded width is 0. -/
structure OutputsInv (s : State) : Prop where
  outputs : ∀ o, OutputWf (s.output o)
  forwarded : ∀ p o m w q, OutReq.setOutput p o m w q ∈ s.engine.table.outPath → w ≠ 0

/-- A snapshot is that of a conclusion that runs actions, with a cause it may carry and a failing step exactly for
MISSED and BROKEN (R166). -/
structure SnapshotWf (n : Snapshot) : Prop where
  outcome : n.outcome ∈ [WOutcome.met, .missed, .broken]
  cause : OutcomePair n.outcome n.cause
  failing : n.failing.isSome = true ↔ n.outcome ≠ .met

/-- Every pending entry stands under its snapshot's index, and every entry and every waiting post carries the snapshot
of a conclusion (R166, R167). -/
structure NoticesInv (s : State) : Prop where
  entries : ∀ (p : Port) (i : Idx) (n : Notice), (s.notice p).pending[i] = some n → n.snap.index = i ∧ SnapshotWf n.snap
  posts : ∀ route n, NoticeReq.post route n ∈ s.engine.table.noticePath → SnapshotWf n

end Sys2Proof.Machine
end

