-- ==== Sys2Proof/WellFormed.lean ====
section
/-! DEFINITION. Which commands are well formed: what the types of Syntax.lean leave open and the frame layouts
and the buses fix. -/

namespace Sys2Proof

/-- A command is well formed: a step descriptor has 20 bytes (R202), SET_ACTIONS carries four action positions
(R204), and a transaction opens with the first byte its row is named for (R178), FETCH and STATUS also as a port B
read, which is a FETCH as soon as it continues past the status byte (R180); a FETCH names the port of its bus. -/
def Instr.wf : Instr → Bool
  | .addStep _ _ desc => desc.length = 20
  | .setActions _ _ _ _ acts => acts.length = 4
  | .command t => t.opening.first = .transfer .command
  | .fetch p o _ => o.bus = p && (o.first = .transfer .fetch || o.first = .read)
  | .abort t => t.opening.first = .transfer .abort
  | .status o part => o.first = .transfer .status || o.first = .read && part.further = 0
  | .unknownTransferCode o _ => o.first = .unknown
  | .create _ _ | .dropStep _ _ | .setOptions _ _ _ _ _ | .seal _ _ | .reopen _ _ | .retire _ _ | .find _ _
  | .readWatch _ _ _ _ | .scan _ _ _ | .readPool _ | .arm _ _ | .cancel _ _ | .hold _ _ | .release _ _
  | .ack _ _ | .armGroup _ _ | .holdGroup _ _ | .releaseGroup _ _ | .cancelGroup _ _ | .clearOwned _
  | .sweepVisit _ | .sweepStop _ | .setTimebase _ _ | .timebaseDividerApply | .timeHold _ | .timeRun _
  | .readTime _ | .tick | .setLine _ _ _ _ _ | .setLineApply _ | .levelReport _ | .maskLine _ _
  | .unmaskLine _ _ | .readLine _ _ | .readLevels _ | .setSampling _ _ | .sample _ | .edgeTaken _
  | .deadlineExpiry | .outSet | .outClear | .outRelease | .outputPurge | .pulseEnd _
  | .setOutput _ _ _ _ _ | .setOutputApply | .forceOutput _ _ _ | .forceOutputApply | .releaseOutput _ _
  | .releaseOutputApply | .readOutput _ _ | .readOutputApply | .noticePost | .noticePurge | .takeNotice _
  | .peekNotices _ | .ackNotice _ _ | .setNoticeEnable _ _ | .identify _ | .deviceReset _
  | .hardwareReset _ | .frameReceived _ _ => true

end Sys2Proof
end

