-- ==== Sys2Proof/Certificates/Slice0/Obligations.lean ====
section
/-! DEFINITION. The statements for the provers, in the terms of Safety.lean. -/

open Sys2Proof Sys2Proof.Machine

/-! ### The machine as a whole -/

/-- One step runs exec on the command at the front of the queue, with the queue's rest. On an empty queue one REFCLK
period passes: the counts rise, and a tick and a sample fall in it exactly when their counts reach their dividers.
That an empty queue lets a period pass, and that a tick comes before a sample of the same period, is the model's choice
(log 3). -/
def Obligations.StepOfQueue : Prop :=
  (∀ (c : Instr) (rest : List Instr) (s : State), s.pending = c :: rest → step s = exec c { s with pending := rest }) ∧
  ∀ s : State, s.pending = [] → ∃ t, step s = .next t ∧
    t = { s with time := t.time, lineUnit := t.lineUnit } ∧
    t.time = (if s.time.hold = .held then s.time
      else if s.time.partialCount + 1 < s.time.divider.toNat then
        { s.time with partialCount := s.time.partialCount + 1 }
      else { s.time with partialCount := 0, now := s.time.now + 1 }) ∧
    (s.lineUnit.sampleCounter + 1 < s.lineUnit.sampleDivider.toNat →
      t.lineUnit = { s.lineUnit with sampleCounter := s.lineUnit.sampleCounter + 1 }) ∧
    (s.lineUnit.sampleDivider.toNat ≤ s.lineUnit.sampleCounter + 1 → t.lineUnit.sampleCounter = 0 ∧
      t.lineUnit.sampleDivider = s.lineUnit.sampleDivider ∧
      ∀ l, LineSampled (s.pins.getLsbD l.val) t.time.now (s.line l) (t.line l))

/-- Every command answers a next state and keeps the waiting commands. A host command that is not in execution at its
port changes nothing. One for the engine is taken only while its first request waits, and a sweep's later request only
while that waits; and neither is passed while the other port's request waits too and the port was the one last served
(R191). That a command not taken changes nothing is the model's choice (log 2). -/
def Obligations.EveryCommandAnswers : Prop :=
  ∀ (c : Instr) (s : State), ∃ t, exec c s = .next t ∧ t.pending = s.pending ∧
    ∀ p : Port,
      let heldBack : Prop := (s.port (otherPort p)).request.isSome = true ∧ s.engine.lastServed = p
      (c.issuer = some p → c ≠ .identify p → (s.port p).inExec ≠ some c → t = s) ∧
      (c.issuer = some p → c ≠ .identify p → c.isDirect = false →
        (s.port p).request ≠ some .first ∨ heldBack → t = s) ∧
      (c = .sweepVisit p → (s.port p).request ≠ some .visit ∨ heldBack → t = s) ∧
      (c = .sweepStop p → (s.port p).request = none ∨ heldBack → t = s)

/-! ### Frames and descriptors -/

/-- The frame of every well-formed host command is read back as that command, has 3 to 31 bytes, and its CRC carried
on over the CRC byte is 00h. -/
def Obligations.FrameRoundTrip : Prop :=
  ∀ (c : Instr) (p : Port), c.wf = true → c.issuer = some p →
    ∃ bytes, c.frame = some bytes ∧ readFrame p bytes = .sound c ∧ 3 ≤ bytes.length ∧ bytes.length ≤ 31 ∧
      crc bytes = 0

/-- A frame is faulty in exactly the four cases of R183. -/
def Obligations.FaultyFrames : Prop :=
  ∀ (p : Port) (bytes : List Byte), readFrame p bytes = .faulty ↔
    bytes.length < 2 ∨ (∃ n, bytes[1]? = some n ∧ (28 < n.toNat ∨ bytes.length ≠ n.toNat + 3)) ∨
      bytes.getLast? ≠ some (crc bytes.dropLast)

/-- Descriptors and actions in range read back from their bytes, and what is read from any bytes is in range and is what
the examined bytes say: its own bytes are the bytes examined, and no other byte or flag bit decides anything. -/
def Obligations.DefinitionRoundTrip : Prop :=
  (∀ d : StepDesc, d.InRange → readStep d.bytes = some d ∧ d.bytes.length = 20) ∧
    (∀ (bytes : List Byte) (d : StepDesc), readStep bytes = some d → d.InRange ∧ d.bytes = examinedBytes bytes) ∧
    (∀ bytes bytes' : List Byte, examinedBytes bytes = examinedBytes bytes' → readStep bytes = readStep bytes') ∧
    (∀ a : Action, ∃ k o, a.bytes = [k, o] ∧ readAction k o = some a) ∧
    ∀ (k o : Byte) (a : Action), readAction k o = some a → a.bytes = [k, o]

/-! ### Table and definition -/

/-- The first failing check of R8 decides the refusal of every command that names a watch by index. -/
def Obligations.ChecksInOrder : Prop :=
  ∀ (c : Instr) (p : Port) (b : Byte) (mutating : Bool) (states : List WState) (s : State),
    namesWatch c = some (p, b, mutating, states) → Offered s p c →
    (63 < b.toNat → exec c s = .next (s.engineAnswers p s.engine (.refuse .badArgument))) ∧
    ∀ i : Idx, b.toNat = i.val →
      ((s.engine.watch i).state = .free →
        exec c s = .next (s.engineAnswers p s.engine (.refuse .noSuchWatch))) ∧
      ((s.engine.watch i).state ≠ .free → mutating = true → (s.engine.watch i).owner ≠ some p →
        exec c s = .next (s.engineAnswers p s.engine (.refuse .notOwner))) ∧
      ((s.engine.watch i).state ≠ .free → (mutating = true → (s.engine.watch i).owner = some p) →
        (s.engine.watch i).state ∉ states →
        exec c s = .next (s.engineAnswers p s.engine (.refuse .stateConflict)))

/-- CREATE makes a DRAFT watch at the lowest FREE index, or is refused by the first of its three checks. -/
def Obligations.CreateMakesDraft : Prop :=
  ∀ (p : Port) (tag : BitVec 16) (s : State), Offered s p (.create p tag) →
    (tag = 0 → exec (.create p tag) s = .next (s.engineAnswers p s.engine (.refuse .badArgument))) ∧
    (tag ≠ 0 → (∃ i, (tag, i) ∈ s.engine.tags) →
      exec (.create p tag) s = .next (s.engineAnswers p s.engine (.refuse .tagInUse))) ∧
    (tag ≠ 0 → (∀ i, (tag, i) ∉ s.engine.tags) → (∀ i, (s.engine.watch i).state ≠ .free) →
      exec (.create p tag) s = .next (s.engineAnswers p s.engine (.refuse .tableFull))) ∧
    ∀ i : Idx, tag ≠ 0 → (∀ j, (tag, j) ∉ s.engine.tags) → (s.engine.watch i).state = .free →
      (∀ j < i, (s.engine.watch j).state ≠ .free) →
      exec (.create p tag) s = .next (s.engineAnswers p
        { s.engine.modify i (fun _ => { Watch.free with state := .draft, tag := some tag, owner := some p }) with
          tags := s.engine.tags ++ [(tag, i)] }
        (.ok [BitVec.ofNat 8 i.val]))

/-- ADD_STEP stores the descriptor behind the steps held, or is refused by the first of its particular checks. -/
def Obligations.AddStepAppends : Prop :=
  ∀ (p : Port) (b : Byte) (desc : List Byte) (i : Idx) (s : State), Offered s p (.addStep p b desc) →
    Names s p b i [.draft] →
    (6 ≤ (s.engine.watch i).steps.length →
      exec (.addStep p b desc) s = .next (s.engineAnswers p s.engine (.refuse .stepLimit))) ∧
    ((s.engine.watch i).steps.length < 6 → readStep desc = none →
      exec (.addStep p b desc) s = .next (s.engineAnswers p s.engine (.refuse .badArgument))) ∧
    ∀ d, (s.engine.watch i).steps.length < 6 → readStep desc = some d →
      (s.engine.freeSlots = 0 →
        exec (.addStep p b desc) s = .next (s.engineAnswers p s.engine (.refuse .poolFull))) ∧
      (s.engine.freeSlots ≠ 0 → exec (.addStep p b desc) s = .next (s.engineAnswers p
        { s.engine.modify i (fun w => { w with steps := w.steps ++ [d] }) with
          freeSlots := s.engine.freeSlots - 1 }
        (.ok [BitVec.ofNat 8 (s.engine.watch i).steps.length,
          BitVec.ofNat 8 ((s.engine.watch i).steps.length + 1)])))

/-- DROP_STEP removes the last step and returns its slot, or is refused on a watch with no steps. -/
def Obligations.DropStepRemovesLast : Prop :=
  ∀ (p : Port) (b : Byte) (i : Idx) (s : State), Offered s p (.dropStep p b) → Names s p b i [.draft] →
    ((s.engine.watch i).steps = [] →
      exec (.dropStep p b) s = .next (s.engineAnswers p s.engine (.refuse .stateConflict))) ∧
    ∀ d front, (s.engine.watch i).steps = front ++ [d] →
      exec (.dropStep p b) s = .next (s.engineAnswers p
        { s.engine.modify i (fun w => { w with steps := front }) with freeSlots := s.engine.freeSlots + 1 }
        (.ok [BitVec.ofNat 8 front.length]))

/-- SET_ACTIONS replaces the whole list of the named side by the counted actions, and SET_OPTIONS sets all three options
together; each is refused on an operand out of range, with no change. -/
def Obligations.SetActionsAndOptionsReplace : Prop :=
  (∀ (p : Port) (b side count : Byte) (acts : List (Byte × Byte)) (i : Idx) (s : State),
    Offered s p (.setActions p b side count acts) → Names s p b i [.draft] →
    ((side ≠ 1 ∧ side ≠ 2 ∨ 4 < count.toNat ∨ ∃ a ∈ acts.take count.toNat, readAction a.1 a.2 = none) →
      exec (.setActions p b side count acts) s = .next (s.engineAnswers p s.engine (.refuse .badArgument))) ∧
    ∀ list : List Action, count.toNat ≤ 4 →
      (acts.take count.toNat).map (fun a => readAction a.1 a.2) = list.map some →
      (side = 1 → exec (.setActions p b side count acts) s = .next (s.engineAnswers p
        (s.engine.modify i fun w => { w with metActions := list }) (.ok [count]))) ∧
      (side = 2 → exec (.setActions p b side count acts) s = .next (s.engineAnswers p
        (s.engine.modify i fun w => { w with failActions := list }) (.ok [count])))) ∧
  ∀ (p : Port) (b rep group route : Byte) (i : Idx) (s : State),
    Offered s p (.setOptions p b rep group route) → Names s p b i [.draft] →
    ((1 < rep.toNat ∨ (7 < group.toNat ∧ group ≠ 0xFF) ∨ 3 < route.toNat) →
      exec (.setOptions p b rep group route) s = .next (s.engineAnswers p s.engine (.refuse .badArgument))) ∧
    ∀ (r : Repeat) (g : Option Group) (t : Route), rep = r.code → group = groupCode g → route = t.code →
      exec (.setOptions p b rep group route) s = .next (s.engineAnswers p
        (s.engine.modify i fun w => { w with rep := r, group := g, route := t }) (.ok []))

/-- SEAL reports the first fault of the examination and changes nothing, or takes a sound definition to IDLE. -/
def Obligations.SealExamines : Prop :=
  ∀ (p : Port) (b : Byte) (i : Idx) (s : State), Offered s p (.seal p b) → Names s p b i [.draft] →
    (∀ code list pos, SealFinds s.engine.table i code list pos →
      exec (.seal p b) s = .next (s.engineAnswers p s.engine
        { status := .invalidDefinition, payload := [code, list, BitVec.ofNat 8 pos] })) ∧
    ((∀ code list pos, ¬SealFinds s.engine.table i code list pos) →
      exec (.seal p b) s = .next (s.engineAnswers p
        (s.engine.modify i fun w => { w with state := .idle }) (.ok [])))

/-- REOPEN takes an IDLE watch to DRAFT and ACK a CONCLUDED one to IDLE, and neither changes anything else. -/
def Obligations.ReopenAndAckReturn : Prop :=
  ∀ (p : Port) (b : Byte) (i : Idx) (s : State),
    (Offered s p (.reopen p b) → Names s p b i [.idle] →
      exec (.reopen p b) s = .next (s.engineAnswers p
        (s.engine.modify i fun w => { w with state := .draft }) (.ok []))) ∧
    (Offered s p (.ack p b) → Names s p b i [.concluded] →
      exec (.ack p b) s = .next (s.engineAnswers p
        (s.engine.modify i fun w => { w with state := .idle }) (.ok [])))

/-- RETIRE frees the watch: slots, tag, two purges and the FREE values; it is refused while a live watch's current
step follows the watch. -/
def Obligations.RetireFrees : Prop :=
  ∀ (p : Port) (b : Byte) (i : Idx) (s : State), Offered s p (.retire p b) →
    Names s p b i [.draft, .idle, .concluded] →
    ((∃ j, (s.engine.watch j).live = true ∧ (s.engine.watch j).followTarget = some i) →
      exec (.retire p b) s = .next (s.engineAnswers p s.engine (.refuse .inUse))) ∧
    ((∀ j, (s.engine.watch j).live = true → (s.engine.watch j).followTarget ≠ some i) →
      exec (.retire p b) s = .next (s.engineAnswers p
        { s.engine with
          freeSlots := s.engine.freeSlots + (s.engine.watch i).steps.length
          tags := s.engine.tags.filter (fun x => x.2 ≠ i)
          table := { s.engine.table with
            watches := s.engine.table.watches.set i Watch.free
            outPath := s.engine.table.outPath ++ [.purge i]
            noticePath := s.engine.table.noticePath ++ [.purge i] } }
        (.ok [])))

/-- FIND answers the watch a tag names, and SCAN the owner and state of each watch in a run of indices; neither
changes the table. -/
def Obligations.FindAndScanAnswer : Prop :=
  ∀ (p : Port) (s : State),
    (∀ tag, Offered s p (.find p tag) →
      (tag = 0 → exec (.find p tag) s = .next (s.engineAnswers p s.engine (.refuse .badArgument))) ∧
      (tag ≠ 0 → (∀ i, (tag, i) ∉ s.engine.tags) →
        exec (.find p tag) s = .next (s.engineAnswers p s.engine (.refuse .tagNotFound))) ∧
      ∀ before i after, tag ≠ 0 → s.engine.tags = before ++ (tag, i) :: after → (∀ j, (tag, j) ∉ before) →
        exec (.find p tag) s = .next (s.engineAnswers p s.engine
          (.ok [BitVec.ofNat 8 i.val, ownerCode (s.engine.watch i).owner, (s.engine.watch i).state.code]))) ∧
    ∀ first count, Offered s p (.scan p first count) →
      (63 < first.toNat ∨ count = 0 ∨ 16 < count.toNat →
        exec (.scan p first count) s = .next (s.engineAnswers p s.engine (.refuse .badArgument))) ∧
      (first.toNat ≤ 63 → count ≠ 0 → count.toNat ≤ 16 → ∃ entries : List Byte,
        exec (.scan p first count) s = .next (s.engineAnswers p s.engine
          (.ok (BitVec.ofNat 8 entries.length :: entries))) ∧
        entries.length = min count.toNat (64 - first.toNat) ∧
        ∀ (k : Nat) (i : Idx), k < entries.length → i.val = first.toNat + k →
          entries[k]? = some (BitVec.ofNat 8
            (16 * (ownerCode (s.engine.watch i).owner).toNat + (s.engine.watch i).state.code.toNat)))

/-- READ_WATCH returns the named part of any watch in use, laid out as R206 states, and changes nothing; an unknown
part or a step that is not there is refused. -/
def Obligations.ReadWatchAnswers : Prop :=
  ∀ (p : Port) (b part k : Byte) (i : Idx) (s : State), Offered s p (.readWatch p b part k) →
    b.toNat = i.val → (s.engine.watch i).state ≠ .free →
    let w := s.engine.watch i
    let answers (payload : List Byte) : Prop :=
      exec (.readWatch p b part k) s = .next (s.engineAnswers p s.engine (.ok payload))
    (part = 1 → answers ([w.state.code] ++ field 2 (w.tag.getD 0).toNat ++
      [ownerCode w.owner, w.rep.code, groupCode w.group, w.route.code, BitVec.ofNat 8 w.steps.length,
        BitVec.ofNat 8 w.metActions.length, BitVec.ofNat 8 w.failActions.length, heldFromCode w.heldFrom])) ∧
    (part = 2 → ∀ d, (d = s.engine.table.deadlines.find? fun x => x.watch = i) →
      answers ([w.state.code, BitVec.ofNat 8 w.current, w.phase.code, w.remaining] ++ field 2 w.epoch.toNat ++
        [BitVec.ofNat 8 ((if w.stepStart.isSome then 1 else 0) + (if w.spanStart.isSome then 2 else 0) +
          (if d.isSome then 4 else 0))] ++
        field 6 (w.stepStart.getD 0).toNat ++ field 6 (w.spanStart.getD 0).toNat ++
        [deadlineKindCode (d.map Deadline.kind)] ++ field 6 ((d.map Deadline.due).getD 0).toNat)) ∧
    (part = 3 → answers ([w.outcome.code, w.cause.code,
        BitVec.ofNat 8 ((if w.failing.isSome then 1 else 0) + (if w.concludedAt.isSome then 2 else 0) +
          (if w.lastSpan.isSome then 4 else 0) + (if w.armedAt.isSome then 8 else 0)),
        BitVec.ofNat 8 (w.failing.getD 0)] ++ field 6 (w.concludedAt.getD 0).toNat ++
      field 3 (w.lastSpan.getD 0).toNat ++ field 6 (w.armedAt.getD 0).toNat ++ field 2 w.cycles.toNat ++
      [w.skipped])) ∧
    (part = 4 → ∀ d, k.toNat < 6 → w.steps[k.toNat]? = some d → answers d.bytes) ∧
    (part = 5 → w.metActions.length ≤ 4 → w.failActions.length ≤ 4 →
      answers ([BitVec.ofNat 8 w.metActions.length] ++ w.metActions.flatMap Action.bytes ++
        List.replicate (8 - 2 * w.metActions.length) 0 ++ [BitVec.ofNat 8 w.failActions.length] ++
        w.failActions.flatMap Action.bytes ++ List.replicate (8 - 2 * w.failActions.length) 0)) ∧
    ((part = 0 ∨ 5 < part.toNat ∨ part = 4 ∧ (6 ≤ k.toNat ∨ w.steps.length ≤ k.toNat)) →
      exec (.readWatch p b part k) s = .next (s.engineAnswers p s.engine (.refuse .badArgument)))

/-- READ_POOL answers the free slots and the number of FREE indices, and changes nothing. -/
def Obligations.ReadPoolAnswers : Prop :=
  ∀ (p : Port) (s : State), Offered s p (.readPool p) →
    exec (.readPool p) s = .next (s.engineAnswers p s.engine
      (.ok [BitVec.ofNat 8 s.engine.freeSlots,
        BitVec.ofNat 8 (Finset.univ.filter fun i : Idx => (s.engine.watch i).state = .free).card]))

/-! ### Runs and cascades -/

/-- A step begins as R49 to R53 state, or breaks at once: CHAIN_LOST on a FREE or foreign target, GUARD on a guard
that does not hold. The conclusion then runs in the same happening, whatever procedure concludes. -/
def Obligations.StepBegins : Prop :=
  ∀ (rec : Concluder) (c : Ctx) (T : Table) (i : Idx) (k : Nat) (t : Time) (d : StepDesc),
    (T.watch i).steps[k]? = some d →
    (TargetFits T i d → GuardHolds c.view d → StepBegun c T (beginStep rec c T i k t) i k t d) ∧
    (¬TargetFits T i d → beginStep rec c T i k t = rec (T.modify i fun w => { w with
        epoch := w.epoch + 1, stepStart := some t, current := k, phase := .none, remaining := 0
        spanStart := none }) i .broken .chainLost t) ∧
    (TargetFits T i d → ¬GuardHolds c.view d → ∃ T', beginStep rec c T i k t = rec T' i .broken .guard t ∧
      StepBegun c T T' i k t { d with guard := none, notAfter := none })

/-- A step completes: it ends, and the next step begins at the completion time in RUNNING, or the watch concludes MET at
it. A conclusion MET runs the met actions and then the deliveries to the followers of its moment. A CYCLIC watch is
then re-armed at the completion time: cycles rise, armed at is set and step 0 begins there, or breaks at once on its
guard or its target. -/
def Obligations.StepCompletes : Prop :=
  (∀ (rec : Concluder) (c : Ctx) (T : Table) (i : Idx) (t : Time), ∃ T', StepEnded T T' i ∧
    ((T.watch i).current + 1 < (T.watch i).steps.length →
      completeStep rec c T i t =
        beginStep rec c (T'.modify i fun w => { w with state := .running }) i ((T.watch i).current + 1) t) ∧
    ((T.watch i).steps.length ≤ (T.watch i).current + 1 → completeStep rec c T i t = rec T' i .met .none t)) ∧
  ∀ (c : Ctx) (T : Table) (i : Idx) (t : Time), ∃ T1, StepEnded (T.modify i fun w => w.ended .met .none t) T1 i ∧
    let acted := (T.watch i).metActions.foldl (runAction (concluder c) c i t) T1
    let followers := (T.followersOf i).map fun f => (f, (T.watch f).epoch)
    let served := followers.foldl (deliver (concluder c) c i .met t) acted
    let rearmed := served.modify i fun w => { w with
      cycles := if w.cycles = 0xFFFF then w.cycles else w.cycles + 1, armedAt := some t, state := .armed }
    let result := concluder c T i .met .none t
    ((T.watch i).rep = .once → result = served) ∧
    ∀ d, (T.watch i).rep = .cyclic → (T.watch i).steps[0]? = some d →
      (TargetFits rearmed i d → GuardHolds c.view d → StepBegun c rearmed result i 0 t d) ∧
      (TargetFits rearmed i d → ¬GuardHolds c.view d → ∃ T2,
        StepBegun c rearmed T2 i 0 t { d with guard := none, notAfter := none } ∧
        result = concluder c T2 i .broken .guard t) ∧
      (¬TargetFits rearmed i d → result = concluder c (rearmed.modify i fun w => { w with
        epoch := w.epoch + 1, stepStart := some t, current := 0, phase := .none, remaining := 0
        spanStart := none }) i .broken .chainLost t)

/-- A conclusion inside a cascade runs its whole procedure: the procedure of the model, which follows a bounded
nesting (log 13), is the unbounded procedure of R78 over itself. -/
def Obligations.ConclusionProcedure : Prop :=
  ∀ (c : Ctx) (T : Table) (i : Idx) (o : WOutcome) (cause : Cause) (t : Time),
    concluder c T i o cause t = concludeWith (concluder c) c T i o cause t

/-- A watch that concludes and is not re-armed carries its conclusion through its whole cascade, and stands in no
list. -/
def Obligations.ConclusionRecorded : Prop :=
  ∀ (c : Ctx) (T : Table) (i : Idx) (o : WOutcome) (cause : Cause) (t : Time),
    o ≠ .met ∨ (T.watch i).rep = .once →
    let T' := concluder c T i o cause t
    T'.watch i = { (T.watch i).ended o cause t with skipped := (T'.watch i).skipped } ∧
      (∀ l, ∀ x ∈ T'.listenersOf l, x.watch ≠ i) ∧ (∀ d ∈ T'.deadlines, d.watch ≠ i) ∧
      ∀ x, (T.watch i).followTarget = some x → i ∉ T'.followersOf x

/-- Each action is carried out on behalf of the acting watch, or skipped and counted. RELEASE_GROUP examines the indices
in ascending order, each as the cascades of the earlier releases left it, and releases every member it finds HELD. -/
def Obligations.ActionsRunOrSkip : Prop :=
  ∀ (rec : Concluder) (c : Ctx) (T : Table) (w : Idx) (t : Time),
    let skip := T.modify w fun x => { x with skipped := if x.skipped = 0xFF then x.skipped else x.skipped + 1 }
    let held (g : Group) (j : Idx) : Prop := (T.watch j).group = some g ∧ (T.watch j).owner = (T.watch w).owner
    runAction rec c w t T .notify = (if (T.watch w).route = .none then skip else { T with
      noticePath := T.noticePath ++ [.post (T.watch w).route {
        index := w, tag := (T.watch w).tag.getD 0, outcome := (T.watch w).outcome, cause := (T.watch w).cause
        failing := (T.watch w).failing, concludedAt := t, cycles := (T.watch w).cycles }] }) ∧
    (∀ o, runAction rec c w t T (.outSet o) = { T with outPath := T.outPath ++ [.action .set o w] }) ∧
    (∀ o, runAction rec c w t T (.outClear o) = { T with outPath := T.outPath ++ [.action .clear o w] }) ∧
    (∀ o, runAction rec c w t T (.outRelease o) = { T with outPath := T.outPath ++ [.action .release o w] }) ∧
    (∀ x, runAction rec c w t T (.arm x) =
      if (T.watch x).state = .idle ∧ (T.watch x).owner = (T.watch w).owner ∧
          ∀ l ∈ (T.watch x).lines, c.view[l].enabled = true then
        beginStep rec c (T.modify x fun y => { y with
          outcome := .none, cause := .none, failing := none, concludedAt := none, lastSpan := none, cycles := 0
          skipped := 0, armedAt := some t, state := .armed, heldFrom := none }) x 0 t
      else skip) ∧
    (∀ x, runAction rec c w t T (.cancel x) =
      if (T.watch x).state ∈ [.armed, .running, .held] ∧ (T.watch x).owner = (T.watch w).owner then
        rec T x .cancelled .action t
      else skip) ∧
    (∀ g, (∀ j, held g j → (T.watch j).runs = false) → runAction rec c w t T (.holdGroup g) = skip) ∧
    (∀ g j, held g j → (T.watch j).runs = true → ∃ T', runAction rec c w t T (.holdGroup g) = T' ∧
      (∀ k, T'.watch k = if held g k ∧ (T.watch k).runs = true then { T.watch k with
          heldFrom := some (if (T.watch k).state = .armed then .armed else .running), state := .held }
        else T.watch k) ∧
      T'.deadlines = T.deadlines.filter (fun d => ¬(held g d.watch ∧ (T.watch d.watch).runs = true)) ∧
      T'.listeners = T.listeners ∧ T'.followers = T.followers ∧ T'.outPath = T.outPath ∧
      T'.noticePath = T.noticePath) ∧
    (∀ g, (∀ j, held g j → (T.watch j).state ≠ .held) → runAction rec c w t T (.releaseGroup g) = skip) ∧
    ∀ g, ∃ released T', ReleasePass rec c w g 0 T released T' ∧
      runAction rec c w t T (.releaseGroup g) = if released = [] then skip else T'

/-- ARM starts the run of an IDLE watch whose named lines are all enabled: results cleared, ARMED, step 0 begun at
`now`, or broken at once; with a line disabled it is refused. -/
def Obligations.ArmStartsRun : Prop :=
  ∀ (p : Port) (b : Byte) (i : Idx) (s : State), Offered s p (.arm p b) → Names s p b i [.idle] →
    ((∃ l ∈ (s.engine.watch i).lines, (s.view l).enabled = false) →
      exec (.arm p b) s = .next (s.engineAnswers p s.engine (.refuse .lineDisabled))) ∧
    ∀ d, (∀ l ∈ (s.engine.watch i).lines, (s.view l).enabled = true) →
      (s.engine.watch i).steps[0]? = some d →
      (TargetFits s.engine.table i d → GuardHolds s.engine.view d → ∃ T',
        exec (.arm p b) s = .next (s.engineAnswers p (s.engine.withTable T') (.ok [3])) ∧
        StepBegun s.ctx (s.engine.table.modify i fun w => { w with
          outcome := .none, cause := .none, failing := none, concludedAt := none, lastSpan := none, cycles := 0
          skipped := 0, armedAt := some s.time.now, state := .armed, heldFrom := none }) T' i 0 s.time.now d) ∧
      (¬(TargetFits s.engine.table i d ∧ GuardHolds s.engine.view d) → ∃ T',
        exec (.arm p b) s = .next (s.engineAnswers p (s.engine.withTable T') (.ok [6])) ∧
        (T'.watch i).state = .concluded ∧ (T'.watch i).outcome = .broken ∧ (T'.watch i).failing = some 0 ∧
        (T'.watch i).concludedAt = some s.time.now ∧ (T'.watch i).armedAt = some s.time.now ∧
        (T'.watch i).cause = if TargetFits s.engine.table i d then .guard else .chainLost)

/-- CANCEL concludes a live watch CANCELLED, cause HOST, at `now`, runs none of its actions and never re-arms it. -/
def Obligations.CancelConcludes : Prop :=
  ∀ (p : Port) (b : Byte) (i : Idx) (s : State), Offered s p (.cancel p b) →
    Names s p b i [.armed, .running, .held] → ∃ T',
    exec (.cancel p b) s = .next (s.engineAnswers p (s.engine.withTable T') (.ok [])) ∧
      T' = concluder s.ctx s.engine.table i .cancelled .host s.time.now ∧
      T'.watch i = (s.engine.watch i).ended .cancelled .host s.time.now ∧
      (s.engine.table.followersOf i = [] →
        StepEnded (s.engine.table.modify i fun w => w.ended .cancelled .host s.time.now) T' i)

/-- HOLD suspends a running watch: held from is recorded and its deadline leaves the list; every list place stays.
RELEASE resumes a HELD watch: its entries leave their lists, its state is the one it was held from, and its
current step begins again at `now`, or breaks at once. -/
def Obligations.HoldSuspendsReleaseRestarts : Prop :=
  (∀ (p : Port) (b : Byte) (i : Idx) (s : State), Offered s p (.hold p b) →
    ∀ r : RunState, Names s p b i [r.toWState] →
      exec (.hold p b) s = .next (s.engineAnswers p
        (s.engine.withTable { (s.engine.table.modify i fun w => { w with heldFrom := some r, state := .held }) with
          deadlines := s.engine.table.deadlines.filter fun d => d.watch ≠ i })
        (.ok [5]))) ∧
  ∀ (p : Port) (b : Byte) (i : Idx) (s : State) (r : RunState) (d : StepDesc), Offered s p (.release p b) →
    Names s p b i [.held] → (s.engine.watch i).heldFrom = some r → (s.engine.watch i).step = some d →
    (TargetFits s.engine.table i d → GuardHolds s.engine.view d → ∃ T0 T',
      exec (.release p b) s = .next (s.engineAnswers p (s.engine.withTable T') (.ok [r.toWState.code])) ∧
      StepBegun s.ctx T0 T' i (s.engine.watch i).current s.time.now d ∧
      T0.watches = (s.engine.table.modify i fun w => { w with state := r.toWState, heldFrom := none }).watches ∧
      (∀ l, T0.listenersOf l = (s.engine.table.listenersOf l).filter fun x => x.watch ≠ i) ∧
      (∀ x, T0.followersOf x = if d.target = some x then (s.engine.table.followersOf x).filter fun j => j ≠ i
        else s.engine.table.followersOf x) ∧
      T0.deadlines = s.engine.table.deadlines ∧ T0.outPath = s.engine.table.outPath ∧
      T0.noticePath = s.engine.table.noticePath) ∧
    (¬(TargetFits s.engine.table i d ∧ GuardHolds s.engine.view d) → ∃ T',
      exec (.release p b) s = .next (s.engineAnswers p (s.engine.withTable T') (.ok [6])) ∧
      (T'.watch i).state = .concluded ∧ (T'.watch i).outcome = .broken ∧
      (T'.watch i).failing = some (s.engine.watch i).current ∧
      (T'.watch i).concludedAt = some s.time.now ∧
      (T'.watch i).cause = if TargetFits s.engine.table i d then .guard else .chainLost)

/-! ### Edges, deliveries and expiries -/

/-- EDGE_TAKEN takes the head edge of the line's queue: on an enabled line it sets the delivered level and serves the
snapshot of the listeners in order; on a disabled line the edge is discarded. -/
def Obligations.EdgeTaken : Prop :=
  ∀ (l : Line) (e : Edge) (rest : List Edge) (s : State), (s.line l).report = none → (s.line l).queue = e :: rest →
    ((s.view l).enabled = false →
      exec (.edgeTaken l) s = .next (s.setLine l { s.line l with queue := rest })) ∧
    ((s.view l).enabled = true →
      let view := s.engine.view.set l { s.view l with delivered := e.dir.level }
      let c : Ctx := { now := s.time.now, view := view }
      let snapshot := (s.engine.table.listenersOf l).map fun x =>
        ({ watch := x.watch, role := x.role, epoch := (s.engine.watch x.watch).epoch } : SnapEntry)
      exec (.edgeTaken l) s = .next { s.setLine l { s.line l with queue := rest } with
        engine := { s.engine with
          view := view
          table := snapshot.foldl (serveEntry (concluder c) c e) s.engine.table } })

/-- A snapshot entry is skipped when its watch has a new epoch or does not run; a loss mark breaks it, an edge served
to a GUARD entry breaks it, each at the edge's stamp or at the step start where the stamp precedes it; and an edge
from before the step is ignored by a TRIGGER entry. -/
def Obligations.EntryServed : Prop :=
  ∀ (rec : Concluder) (c : Ctx) (e : Edge) (T : Table) (x : SnapEntry) (start : Time),
    (T.watch x.watch).stepStart = some start →
    let precedes : Prop := 2 ^ 47 ≤ (e.stamp - start).toNat
    let at_ := if precedes then start else e.stamp
    ((T.watch x.watch).epoch ≠ x.epoch ∨ (T.watch x.watch).state ∉ [.armed, .running] →
      serveEntry rec c e T x = T) ∧
    ((T.watch x.watch).epoch = x.epoch → (T.watch x.watch).state ∈ [.armed, .running] →
      (e.lost = true → serveEntry rec c e T x = rec T x.watch .broken .lostEdge at_) ∧
      (e.lost = false → x.role = .guard → serveEntry rec c e T x = rec T x.watch .broken .guard at_) ∧
      (e.lost = false → x.role = .trigger → precedes → serveEntry rec c e T x = T))

/-- An EDGE step judges an edge of its kind against its window, counts it, and completes on the last one needed. While
edges are still to be counted, a reached LATE entry leaves and one not reached stays: that is the model's choice
between R74 and R53, R66 and R129 (log 27). -/
def Obligations.EdgeStepJudged : Prop :=
  ∀ (rec : Concluder) (c : Ctx) (e : Edge) (T : Table) (x : SnapEntry) (start : Time) (d : StepDesc) (p : Line)
    (q : Option Line) (kind : EdgeKind) (n : Byte),
    (T.watch x.watch).stepStart = some start → (T.watch x.watch).epoch = x.epoch →
    (T.watch x.watch).state ∈ [.armed, .running] → x.role = .trigger → e.lost = false →
    (e.stamp - start).toNat < 2 ^ 47 → (T.watch x.watch).step = some d → d.kind = .edge p q kind n →
    let counted : Prop := kind = .any ∨ kind = .rise ∧ e.dir = .rise ∨ kind = .fall ∧ e.dir = .fall
    let elapsed := (e.stamp - start).toNat
    let early : Prop := ∃ nb, d.notBefore = some nb ∧ elapsed < nb.toNat
    let T1 := T.modify x.watch fun w => { w with remaining := w.remaining - 1, state := .running }
    (¬counted → serveEntry rec c e T x = T) ∧
    (counted → early → serveEntry rec c e T x = rec T x.watch .broken .early e.stamp) ∧
    (∀ na, counted → ¬early → d.notAfter = some na → na.toNat < elapsed →
      serveEntry rec c e T x = rec T x.watch .missed .late (start + na.setWidth 48 + 1)) ∧
    (counted → ¬early → (∀ na, d.notAfter = some na → elapsed ≤ na.toNat) →
      ((T.watch x.watch).remaining ≠ 1 → serveEntry rec c e T x = { T1 with
        deadlines := T.deadlines.filter fun y =>
          ¬(y.watch = x.watch ∧ y.kind = .late ∧ (c.now - y.due).toNat < 2 ^ 47) }) ∧
      ((T.watch x.watch).remaining = 1 → serveEntry rec c e T x = completeStep rec c T1 x.watch e.stamp))

/-- A SPAN step waits for the edge into its level, judged against its window, and measures the span on the edge that
leaves it. -/
def Obligations.SpanStepJudged : Prop :=
  ∀ (rec : Concluder) (c : Ctx) (e : Edge) (T : Table) (x : SnapEntry) (start : Time) (d : StepDesc) (p : Line)
    (v : Level) (mn mx : Option Duration),
    (T.watch x.watch).stepStart = some start → (T.watch x.watch).epoch = x.epoch →
    (T.watch x.watch).state ∈ [.armed, .running] → x.role = .trigger → e.lost = false →
    (e.stamp - start).toNat < 2 ^ 47 → (T.watch x.watch).step = some d → d.kind = .span p v mn mx →
    let into : Prop := e.dir = .rise ∧ v = .high ∨ e.dir = .fall ∧ v = .low
    let elapsed := (e.stamp - start).toNat
    let early : Prop := ∃ nb, d.notBefore = some nb ∧ elapsed < nb.toNat
    ((T.watch x.watch).phase = .waitEntry →
      (¬into → serveEntry rec c e T x = T) ∧
      (into → early → serveEntry rec c e T x = rec T x.watch .broken .early e.stamp) ∧
      (∀ na, into → ¬early → d.notAfter = some na → na.toNat < elapsed →
        serveEntry rec c e T x = rec T x.watch .missed .late (start + na.setWidth 48 + 1)) ∧
      (into → ¬early → (∀ na, d.notAfter = some na → elapsed ≤ na.toNat) →
        serveEntry rec c e T x =
          { T.modify x.watch (fun w =>
              { w with state := .running, spanStart := some e.stamp, phase := .inSpan }) with
            deadlines :=
              let left := T.deadlines.filter fun y => y.watch ≠ x.watch
              match mx with
              | some m => insertDeadline c.now
                { watch := x.watch, due := e.stamp + m.setWidth 48 + 1, kind := .spanLong } left
              | none => left })) ∧
    ((T.watch x.watch).phase = .inSpan →
      (into → serveEntry rec c e T x = T) ∧
      (∀ entry, ¬into → (T.watch x.watch).spanStart = some entry →
        let span := (e.stamp - entry).toNat
        let T1 := T.modify x.watch fun w => { w with lastSpan := some (BitVec.ofNat 24 (min span 16777215)) }
        let short : Prop := ∃ m, mn = some m ∧ span < m.toNat
        (short → serveEntry rec c e T x = rec T1 x.watch .broken .short e.stamp) ∧
        (∀ m, ¬short → mx = some m → m.toNat < span →
          serveEntry rec c e T x = rec T1 x.watch .broken .long (entry + m.setWidth 48 + 1)) ∧
        (¬short → (∀ m, mx = some m → span ≤ m.toNat) →
          serveEntry rec c e T x = completeStep rec c T1 x.watch e.stamp)))

/-- A delivery is skipped as R90 states, else judged by window and wanted outcome at the target's conclusion time, or
at the step start where that precedes it. -/
def Obligations.DeliveryJudged : Prop :=
  ∀ (rec : Concluder) (c : Ctx) (T : Table) (w f : Idx) (o : WOutcome) (t start : Time) (epoch : BitVec 16),
    (T.watch f).stepStart = some start →
    let goes : Prop := (T.watch f).epoch = epoch ∧ (T.watch f).state ∈ [.armed, .running] ∧
      (T.watch f).followTarget = some w
    (¬goes → deliver rec c w o t T (f, epoch) = T) ∧
    ∀ (d : StepDesc) (wanted : Wanted), goes → (T.watch f).step = some d → d.kind = .follow w wanted →
      o ≠ .none →
      let at_ := if 2 ^ 47 ≤ (t - start).toNat then start else t
      let elapsed := (at_ - start).toNat
      let early : Prop := ∃ nb, d.notBefore = some nb ∧ elapsed < nb.toNat
      let wants : Prop := wanted = .any ∨ wanted = .met ∧ o = .met ∨ wanted = .fail ∧ (o = .missed ∨ o = .broken)
      (early → deliver rec c w o t T (f, epoch) = rec T f .broken .early at_) ∧
      (∀ na, ¬early → d.notAfter = some na → na.toNat < elapsed →
        deliver rec c w o t T (f, epoch) = rec T f .missed .late (start + na.setWidth 48 + 1)) ∧
      (¬early → (∀ na, d.notAfter = some na → elapsed ≤ na.toNat) →
        deliver rec c w o t T (f, epoch) =
          if wants then completeStep rec c T f at_ else rec T f .broken .chain at_)

/-- DEADLINE_EXPIRY takes the reached head of the deadline list: MISSED LATE, completion of the DELAY step, or BROKEN
LONG, at the due time. A head that is not reached stays: the model's choice (log 2). -/
def Obligations.DeadlineExpiry : Prop :=
  ∀ (d : Deadline) (rest : List Deadline) (s : State), s.engine.table.deadlines = d :: rest →
    let T := { s.engine.table with deadlines := rest }
    (2 ^ 47 ≤ (s.time.now - d.due).toNat → exec .deadlineExpiry s = .next s) ∧
    ((s.time.now - d.due).toNat < 2 ^ 47 → exec .deadlineExpiry s = .next { s with
      engine := s.engine.withTable (match d.kind with
        | .late => concluder s.ctx T d.watch .missed .late d.due
        | .delayEnd => completeStep (concluder s.ctx) s.ctx T d.watch d.due
        | .spanLong => concluder s.ctx T d.watch .broken .long d.due) })

/-! ### Sweeps -/

/-- A request of a sweep visits its next member in index order, places the next request while a further member is
found, and else completes with its counts; a group above 7 is refused. A member is a watch in use, owned by the issuing
port and, for a group command, of its group; CLEAR_OWNED, which has no group, takes every group. -/
def Obligations.SweepRequest : Prop :=
  (∀ (p : Port) (c : Instr) (w : Sweep) (s : State), SweepTaken s p c w →
    let member (T : Table) (i : Idx) : Prop := (T.watch i).state ≠ .free ∧ (T.watch i).owner = some p ∧
      ∀ g, w.group = some g → (T.watch i).group = some g
    let counts (a k : Nat) : List Byte := [BitVec.ofNat 8 a, BitVec.ofNat 8 k]
    let done (e : Engine) : Engine := { e with sweeps := e.sweeps.set p { run := none, stop := false } }
    ((∀ i : Idx, w.next ≤ i.val → ¬member s.engine.table i) →
      exec c s = .next (s.engineAnswers p (done s.engine) (.ok (counts w.affected w.skipped)))) ∧
    ∀ i : Idx, w.next ≤ i.val → member s.engine.table i →
      (∀ j < i, w.next ≤ j.val → ¬member s.engine.table j) →
      let e := (visit w.kind s.ctx s.engine i).1
      let yes := (visit w.kind s.ctx s.engine i).2 = true
      let a := if yes then w.affected + 1 else w.affected
      let k := if yes then w.skipped else w.skipped + 1
      ((∀ j > i, ¬member e.table j) →
        exec c s = .next (s.engineAnswers p (done e) (.ok (counts a k)))) ∧
      ((∃ j > i, member e.table j) →
        exec c s = .next (s.engineTook p
          { e with sweeps := e.sweeps.set p { stop := false, run := some {
            kind := w.kind, group := w.group, next := i.val + 1, affected := a, skipped := k } } }
          (some .visit)))) ∧
  ∀ (p : Port) (g : Byte) (c : Instr) (s : State), 7 < g.toNat →
    c ∈ [.armGroup p g, .holdGroup p g, .releaseGroup p g, .cancelGroup p g] → Offered s p c →
    (s.sweep p).stop = false → exec c s = .next (s.engineAnswers p s.engine (.refuse .badArgument))

/-- A visit acts on its member as the single command of the host would, and counts it as affected exactly when that
command would be OK; a HOLD, ARM, RELEASE or CANCEL visit leaves any other member as it is.
A CLEAR_OWNED visit frees its member whatever its state: it leaves every list, its own follower list is emptied,
its slots and its tag return, two purges leave, and the record takes its FREE values. -/
def Obligations.SweepVisits : Prop :=
  (∀ (p : Port) (c : Ctx) (e : Engine) (i : Idx) (b : Byte), b.toNat = i.val → (e.watch i).state ≠ .free →
    (e.watch i).owner = some p →
    let agrees (kind : SweepKind) (single : Engine × Response) : Prop :=
      visit kind c e i = (single.1, decide (single.2.status = .ok))
    agrees .arm (armAt p b c e) ∧ agrees .hold (holdAt p b e) ∧ agrees .release (releaseAt p b c e) ∧
      agrees .cancel (cancelAt p b c e)) ∧
  ∀ (c : Ctx) (e : Engine) (i : Idx), ∃ e', visit .clear c e i = (e', true) ∧
    e'.freeSlots = e.freeSlots + (e.watch i).steps.length ∧ e'.tags = e.tags.filter (fun x => x.2 ≠ i) ∧
    (∀ j, e'.watch j = if j = i then Watch.free else e.watch j) ∧
    (∀ l, e'.table.listenersOf l = (e.table.listenersOf l).filter fun x => x.watch ≠ i) ∧
    (∀ x, e'.table.followersOf x =
      if x = i then []
      else if (e.watch i).followTarget = some x then (e.table.followersOf x).filter fun j => j ≠ i
      else e.table.followersOf x) ∧
    e'.table.deadlines = e.table.deadlines.filter (fun d => d.watch ≠ i) ∧
    e'.table.outPath = e.table.outPath ++ [.purge i] ∧ e'.table.noticePath = e.table.noticePath ++ [.purge i] ∧
    e'.view = e.view ∧ e'.sweeps = e.sweeps ∧ e'.lastServed = e.lastServed

/-- A sweep's waiting request taken with the stop request present makes no visit: the record is emptied and the sweep
ends ABORTED with the counts reached, which the port holds for its host. The rows of the table that command this taking
are log 25. -/
def Obligations.SweepStop : Prop :=
  ∀ (p : Port) (c : Instr) (s : State), (s.port p).inExec = some c → c.isSweep = true → c.issuer = some p →
    (s.sweep p).stop = true → ((s.port (otherPort p)).request = none ∨ s.engine.lastServed = otherPort p) →
    let counts := match (s.sweep p).run with
      | some w => [BitVec.ofNat 8 w.affected, BitVec.ofNat 8 w.skipped]
      | none => [0, 0]
    let stopped := s.engineAnswers p { s.engine with sweeps := s.engine.sweeps.set p { run := none, stop := false } }
      { status := .aborted, payload := counts }
    ((s.port p).request.isSome = true → exec (.sweepStop p) s = .next stopped) ∧
    ((s.port p).request = some .visit → exec (.sweepVisit p) s = .next stopped) ∧
    ((s.port p).request = some .first → exec c s = .next stopped)

/-! ### Time -/

/-- SET_TIMEBASE is refused on divider 0 and while a watch is live, and is else forwarded; the Timebase then takes the
divider, clears the partial count, and the command completes. -/
def Obligations.SetTimebaseForwarded : Prop :=
  (∀ (p : Port) (divider : BitVec 16) (s : State), Offered s p (.setTimebase p divider) →
    (divider = 0 →
      exec (.setTimebase p divider) s = .next (s.engineAnswers p s.engine (.refuse .badArgument))) ∧
    (divider ≠ 0 → (∃ i, (s.engine.watch i).live = true) →
      exec (.setTimebase p divider) s = .next (s.engineAnswers p s.engine (.refuse .stateConflict))) ∧
    (divider ≠ 0 → (∀ i, (s.engine.watch i).live = false) →
      exec (.setTimebase p divider) s = .next { s.engineTook p s.engine none with
        dividerPath := s.dividerPath ++ [{ divider := divider, reply := some p }] })) ∧
  ∀ (r : DividerReq) (rest : List DividerReq) (s : State), s.dividerPath = r :: rest →
    exec .timebaseDividerApply s = .next { s.answersIf r.reply (.ok []) with
      dividerPath := rest, time := { s.time with divider := r.divider, partialCount := 0 } }

/-- TIME_HOLD and TIME_RUN set the hold state, keep `now` and the partial count, and answer the hold state before.
READ_TIME answers `now` and the hold state of one happening, and changes no state. -/
def Obligations.TimeHoldRunRead : Prop :=
  (∀ (p : Port) (s : State),
    let before : Byte := if s.time.hold = .running then 0 else 1
    ((s.port p).inExec = some (.timeHold p) → exec (.timeHold p) s =
      .next { s.answers p (.ok [before]) with time := { s.time with hold := .held } }) ∧
    ((s.port p).inExec = some (.timeRun p) → exec (.timeRun p) s =
      .next { s.answers p (.ok [before]) with time := { s.time with hold := .running } })) ∧
  ∀ (p : Port) (s : State), (s.port p).inExec = some (.readTime p) →
    exec (.readTime p) s = .next (s.answers p
      (.ok (field 6 s.time.now.toNat ++ [if s.time.hold = .running then 0 else 1])))

/-- TICK in RUNNING lets the REFCLK periods pass up to the one in which the partial count reaches the divider: `now`
rises by one, modulo 2^48, and the partial count is 0. The samples that fall due in those periods are taken, with the
pins as they stand. In HELD there is no tick and nothing changes. That TICK brings the periods before it along, and
comes before a sample of its own period, is the model's choice (log 4). -/
def Obligations.TickCountsTime : Prop :=
  ∀ s : State, (s.time.hold = .held → exec .tick s = .next s) ∧
    (s.time.hold = .running → s.time.partialCount < s.time.divider.toNat →
      s.lineUnit.sampleCounter < s.lineUnit.sampleDivider.toNat →
      let periods := s.time.divider.toNat - s.time.partialCount
      let count := s.lineUnit.sampleCounter + periods
      let every := s.lineUnit.sampleDivider.toNat
      ∃ t, exec .tick s = .next t ∧ t = { s with time := t.time, lineUnit := t.lineUnit } ∧
        t.time = { s.time with now := t.time.now, partialCount := 0 } ∧
        t.time.now.toNat = (s.time.now.toNat + 1) % 2 ^ 48 ∧
        t.lineUnit.sampleDivider = s.lineUnit.sampleDivider ∧ t.lineUnit.sampleCounter = count % every ∧
        ∀ l, ∃ y, LineSampledTimes (s.pins.getLsbD l.val) s.time.now ((count - 1) / every) (s.line l) y ∧
          if count % every = 0 then LineSampled (s.pins.getLsbD l.val) t.time.now y (t.line l) else t.line l = y)

/-- A time is reached exactly when its offset is 0 or less, and an offset lies between -(2^47 - 1) and 2^47.
A new deadline enters directly after every entry whose offset is not greater, ahead of those whose offset is
greater, and a list in offset order stays so. -/
def Obligations.DeadlineListOrdered : Prop :=
  (∀ now u : Time, (reached now u = true ↔ offset now u ≤ 0) ∧ -(2 ^ 47 - 1) ≤ offset now u ∧
    offset now u ≤ 2 ^ 47 ∧ (offset now u - ((u.toNat : Int) - now.toNat)) % 2 ^ 48 = 0) ∧
  ∀ (now : Time) (d : Deadline) (list : List Deadline),
    list.Pairwise (fun x y => offset now x.due ≤ offset now y.due) →
    (insertDeadline now d list).Pairwise (fun x y => offset now x.due ≤ offset now y.due) ∧
    insertDeadline now d list = (list.filter fun x => offset now x.due ≤ offset now d.due) ++
      d :: list.filter fun x => offset now d.due < offset now x.due

/-! ### Lines -/

/-- SET_LINE is refused on an operand out of range, on a marked line, and on a line in use that it would disable or
invert; else the line is marked, an altered line (log 14) shows disabled and LOW, and the configuration is
forwarded. -/
def Obligations.SetLineForwarded : Prop :=
  ∀ (p : Port) (line enable polarity filter : Byte) (s : State),
    Offered s p (.setLine p line enable polarity filter) →
    (23 < line.toNat ∨ 1 < enable.toNat ∨ 1 < polarity.toNat ∨ 15 < filter.toNat →
      exec (.setLine p line enable polarity filter) s =
        .next (s.engineAnswers p s.engine (.refuse .badArgument))) ∧
    ∀ (l : Line) (cfg : LineConfig), line.toNat = l.val → enable = yesNo cfg.enable → polarity = cfg.polarity.code →
      filter = cfg.filter.setWidth 8 →
      let old := (s.line l).config
      let inUse : Prop := s.engine.table.listenersOf l ≠ [] ∨
        ∃ i, (s.engine.watch i).live = true ∧ l ∈ (s.engine.watch i).lines
      let refusal : Prop := (s.view l).mark = true ∨
        inUse ∧ (old.enable = true ∧ cfg.enable = false ∨ old.polarity ≠ cfg.polarity)
      let alters : Prop := old.enable ≠ cfg.enable ∨ old.polarity ≠ cfg.polarity
      (refusal → exec (.setLine p line enable polarity filter) s =
        .next (s.engineAnswers p s.engine (.refuse .lineInUse))) ∧
      (¬refusal → exec (.setLine p line enable polarity filter) s =
        .next { s.engineTook p
            { s.engine with view := s.engine.view.set l (
              if alters then { enabled := false, delivered := .low, mark := true }
              else { s.view l with mark := true }) } none with
          linePath := s.linePath ++ [{ line := l, config := cfg, reply := some p }] })

/-- SET_LINE_APPLY: the Line Unit empties the queue, takes the configuration, sets the accepted level without an edge,
clears the counts and sends the level report, marked when edges were discarded by a filter-only change; the pins it
reads are its operand (log 5).
LEVEL_REPORT: the engine sets the view from the report, serves a loss mark to the listeners, removes the mark and
completes the SET_LINE at the port that still waits for it. -/
def Obligations.LineApplyAndReport : Prop :=
  (∀ (pins : BitVec 24) (r : LineReq) (rest : List LineReq) (s : State), s.linePath = r :: rest →
    let x := s.line r.line
    let pin := pins.getLsbD r.line.val
    let level : Level :=
      if r.config.enable = false then .low
      else if x.config.enable = false then
        (if r.config.polarity = .normal then (if pin then .high else .low) else if pin then .low else .high)
      else if x.config.polarity = r.config.polarity then x.accepted
      else if x.accepted = .low then .high else .low
    exec (.setLineApply pins) s = .next { s with
      linePath := rest, pins := pins
      lineUnit := { s.lineUnit with lines := s.lineUnit.lines.set r.line {
        config := r.config, masked := x.masked, progress := 0, accepted := level, queue := [], edgeCount := 0
        lostCount := 0
        report := some {
          enable := r.config.enable, level := level, stamp := s.time.now, reply := r.reply
          lost := decide (x.queue ≠ [] ∧ x.config.enable = true ∧ r.config.enable = true ∧
            x.config.polarity = r.config.polarity) } } } }) ∧
  ∀ (l : Line) (r : LevelReport) (s : State), (s.line l).report = some r →
    let view := s.engine.view.set l { s.view l with enabled := r.enable, delivered := r.level }
    let c : Ctx := { now := s.time.now, view := view }
    let snapshot := (s.engine.table.listenersOf l).map fun x =>
      ({ watch := x.watch, role := x.role, epoch := (s.engine.watch x.watch).epoch } : SnapEntry)
    let after : Engine := { s.engine with
      view := s.engine.view.set l { enabled := r.enable, delivered := r.level, mark := false } }
    (r.lost = false → exec (.levelReport l) s =
      .next { State.answersIf (s.setLine l { s.line l with report := none }) r.reply (.ok [r.level.code]) with
        engine := after }) ∧
    (r.lost = true → ∃ kind, exec (.levelReport l) s =
      .next { State.answersIf (s.setLine l { s.line l with report := none }) r.reply (.ok [r.level.code]) with
        engine := { after with
          table := snapshot.foldl (serveEntry (concluder c) c { dir := kind, stamp := r.stamp, lost := true })
            s.engine.table } })

/-- The commands the Line Unit takes directly: MASK_LINE, UNMASK_LINE, READ_LINE, READ_LEVELS and SET_SAMPLING, each
with the mask state, the items or nothing in its response; a line above 23 or a divider of 0 is refused. -/
def Obligations.LineUnitCommandsAnswer : Prop :=
  ∀ (p : Port) (s : State),
    (∀ b c, c ∈ [Instr.maskLine p b, .unmaskLine p b, .readLine p b] → (s.port p).inExec = some c → 23 < b.toNat →
      exec c s = .next (s.answers p (.refuse .badArgument))) ∧
    (∀ (b : Byte) (l : Line), b.toNat = l.val →
      ((s.port p).inExec = some (.maskLine p b) → exec (.maskLine p b) s =
        .next ((if (s.line l).masked then s else s.setLine l { s.line l with masked := true, progress := 0 }).answers
          p (.ok [if (s.line l).masked then 1 else 0]))) ∧
      ((s.port p).inExec = some (.unmaskLine p b) → exec (.unmaskLine p b) s =
        .next ((if (s.line l).masked then s.setLine l { s.line l with masked := false, progress := 0 } else s).answers
          p (.ok [if (s.line l).masked then 1 else 0]))) ∧
      ((s.port p).inExec = some (.readLine p b) → exec (.readLine p b) s = .next (s.answers p (.ok
        ([if (s.line l).config.enable then 1 else 0, (s.line l).config.polarity.code,
            (s.line l).config.filter.setWidth 8, if (s.line l).masked then 1 else 0, (s.line l).accepted.code,
            (s.view l).delivered.code] ++
          field 2 (s.line l).edgeCount.toNat ++
          [(s.line l).lostCount, BitVec.ofNat 8 (s.line l).queue.length,
            if (s.line l).queue.any Edge.lost then 1 else 0]))))) ∧
    ((s.port p).inExec = some (.readLevels p) → exec (.readLevels p) s = .next (s.answers p
      (.ok (field 3 (markMap fun l : Line => (s.line l).accepted = .high))))) ∧
    ∀ divider, (s.port p).inExec = some (.setSampling p divider) →
      (divider = 0 → exec (.setSampling p divider) s = .next (s.answers p (.refuse .badArgument))) ∧
      (divider ≠ 0 → exec (.setSampling p divider) s = .next { s.answers p (.ok []) with
        lineUnit := {
          lines := s.lineUnit.lines.map fun x => { x with progress := 0 }
          sampleDivider := divider, sampleCounter := 0 } })

/-- SAMPLE lets the REFCLK periods pass up to the one in which the sample counter reaches the sample divider, and reads
every enabled, unmasked line there: equal to the accepted level it clears the filter progress; else the progress
rises, and at F + 1 the change is accepted with a stamped edge, queued, or dropped at a full queue whose newest entry
it marks and whose kind it gives. The ticks that fall due in those periods count, and the stamp is `now` before a tick
of the sample's own period. That the pins are the command's operand, and that SAMPLE brings the periods before it
along, is the model's choice (log 4, log 5). -/
def Obligations.SampleFilters : Prop :=
  ∀ (pins : BitVec 24) (s : State), s.time.partialCount < s.time.divider.toNat →
    s.lineUnit.sampleCounter < s.lineUnit.sampleDivider.toNat →
    let periods := s.lineUnit.sampleDivider.toNat - s.lineUnit.sampleCounter
    let counted (k : Nat) : Nat := if s.time.hold = .running then s.time.partialCount + k else s.time.partialCount
    let nowAfter (k : Nat) : Time := s.time.now + BitVec.ofNat 48 (counted k / s.time.divider.toNat)
    ∃ t, exec (.sample pins) s = .next t ∧ t = { s with pins := pins, time := t.time, lineUnit := t.lineUnit } ∧
      t.time = { s.time with
        now := nowAfter periods, partialCount := counted periods % s.time.divider.toNat } ∧
      t.lineUnit.sampleCounter = 0 ∧ t.lineUnit.sampleDivider = s.lineUnit.sampleDivider ∧
      ∀ l, LineSampled (pins.getLsbD l.val) (nowAfter (periods - 1)) (s.line l) (t.line l)

/-! ### Outputs -/

/-- OUT_SET, OUT_CLEAR, OUT_RELEASE and OUTPUT_PURGE take their request from the head of the path, and PULSE_END ends a
reached pulse; each changes the claims or the pulse alone, and the activation count where an output becomes active. -/
def Obligations.OutputActionsApply : Prop :=
  ∀ (s : State),
    let settled (x y : OutputState) : OutputState :=
      if x.active s.time.now = false ∧ y.active s.time.now = true then { y with count := y.count + 1 } else y
    let changed (o : Output) (y : OutputState) : State :=
      { s with outputs := s.outputs.set o (settled (s.output o) y) }
    let none_ : Vector Bool 64 := Vector.replicate 64 false
    (∀ o w rest, s.engine.table.outPath = .action .set o w :: rest →
      exec .outSet s = .next ((changed o (
        if (s.output o).mode = .latch then { s.output o with drivers := (s.output o).drivers.set w true }
        else { s.output o with pulseEnd := some (s.time.now + (s.output o).width.setWidth 48) })).setOutPath rest)) ∧
    (∀ o w rest, s.engine.table.outPath = .action .clear o w :: rest →
      exec .outClear s = .next ((changed o (
        if (s.output o).mode = .latch then { s.output o with drivers := (s.output o).drivers.set w false }
        else { s.output o with pulseEnd := none })).setOutPath rest)) ∧
    (∀ o w rest, s.engine.table.outPath = .action .release o w :: rest →
      exec .outRelease s = .next ((changed o
        { s.output o with drivers := none_, pulseEnd := none }).setOutPath rest)) ∧
    (∀ i rest, s.engine.table.outPath = .purge i :: rest → ∃ t, exec .outputPurge s = .next t ∧
      t = { s.setOutPath rest with outputs := t.outputs } ∧
      ∀ o, t.output o = { s.output o with drivers := (s.output o).drivers.set i false }) ∧
    ∀ o e, (s.output o).pulseEnd = some e → (s.time.now - e).toNat < 2 ^ 47 →
      exec (.pulseEnd o) s = .next { s with outputs := s.outputs.set o { s.output o with pulseEnd := none } }

/-- The host output commands whose operands are in range leave on the output request path behind all that was sent
before and stay in execution; with an operand out of range they are refused.
The Output Unit takes a forwarded host output command from the head of the path, with its effect, and the command
completes at its port with the unit's response. -/
def Obligations.HostOutputCommandsServed : Prop :=
  (∀ (p : Port) (s : State),
    let sent (r : OutReq) : State := s.engineTook p
      (s.engine.withTable { s.engine.table with outPath := s.engine.table.outPath ++ [r] }) none
    let refused := s.engineAnswers p s.engine (.refuse .badArgument)
    (∀ b m width q, Offered s p (.setOutput p b m width q) →
      (7 < b.toNat ∨ 1 < m.toNat ∨ width = 0 ∨ 1 < q.toNat → exec (.setOutput p b m width q) s = .next refused) ∧
      ∀ (o : Output) (mode : OutMode) (pol : OutPolarity), b.toNat = o.val → m = mode.code → q = pol.code →
        width ≠ 0 → exec (.setOutput p b m width q) s = .next (sent (.setOutput p o mode width pol))) ∧
    (∀ b f, Offered s p (.forceOutput p b f) →
      (7 < b.toNat ∨ 2 < f.toNat → exec (.forceOutput p b f) s = .next refused) ∧
      ∀ (o : Output) (force : Force), b.toNat = o.val → f = force.code →
        exec (.forceOutput p b f) s = .next (sent (.forceOutput p o force))) ∧
    (∀ b, Offered s p (.releaseOutput p b) →
      (7 < b.toNat → exec (.releaseOutput p b) s = .next refused) ∧
      ∀ o : Output, b.toNat = o.val → exec (.releaseOutput p b) s = .next (sent (.releaseOutput p o))) ∧
    ∀ b, Offered s p (.readOutput p b) →
      (7 < b.toNat → exec (.readOutput p b) s = .next refused) ∧
      ∀ o : Output, b.toNat = o.val → exec (.readOutput p b) s = .next (sent (.readOutput p o))) ∧
  ∀ (p : Port) (o : Output) (rest : List OutReq) (s : State),
    let x := s.output o
    let none_ : Vector Bool 64 := Vector.replicate 64 false
    let done (y : OutputState) (payload : List Byte) : State :=
      ((s.setOutput o (
        if x.active s.time.now = false ∧ y.active s.time.now = true then { y with count := y.count + 1 }
        else y)).setOutPath rest).answers p (.ok payload)
    (∀ mode width pol, s.engine.table.outPath = .setOutput p o mode width pol :: rest →
      exec .setOutputApply s = .next (done { x with
        drivers := none_, pulseEnd := none, mode := mode, width := width, polarity := pol } [])) ∧
    (∀ force, s.engine.table.outPath = .forceOutput p o force :: rest →
      exec .forceOutputApply s = .next (done { x with force := force } [x.force.code])) ∧
    (s.engine.table.outPath = .releaseOutput p o :: rest →
      exec .releaseOutputApply s = .next (done { x with drivers := none_, pulseEnd := none }
        [BitVec.ofNat 8 (Finset.univ.filter fun i : Idx => x.drivers[i] = true).card])) ∧
    (s.engine.table.outPath = .readOutput p o :: rest →
      exec .readOutputApply s = .next ((s.setOutPath rest).answers p (.ok
        ([x.mode.code] ++ field 2 x.width.toNat ++
          [x.polarity.code, x.force.code, if x.active s.time.now then 1 else 0] ++
          field 8 (markMap fun i : Idx => x.drivers[i]) ++
          field 2 (match x.pulseEnd with
            | some e => if (s.time.now - e).toNat < 2 ^ 47 then 0 else (e - s.time.now).toNat
            | none => 0) ++
          field 2 x.count.toNat))))

/-! ### Notices -/

/-- NOTICE_POST places its snapshot in each set its route names, marked when it replaces an entry; NOTICE_PURGE removes
the entry of its index from both sets. -/
def Obligations.NoticePathTaken : Prop :=
  ∀ s : State,
    (∀ route n rest, s.engine.table.noticePath = .post route n :: rest → ∃ t, exec .noticePost s = .next t ∧
      t = { s.setNoticePath rest with notices := t.notices } ∧
      ∀ q : Port, (t.notice q).enable = (s.notice q).enable ∧ ∀ i : Idx, (t.notice q).pending[i] =
        if i = n.index ∧ (route = .both ∨ route = .a ∧ q = .A ∨ route = .b ∧ q = .B) then
          some { snap := n, overrun := (s.notice q).pending[i].isSome }
        else (s.notice q).pending[i]) ∧
    ∀ i rest, s.engine.table.noticePath = .purge i :: rest → ∃ t, exec .noticePurge s = .next t ∧
      t = { s.setNoticePath rest with notices := t.notices } ∧
      ∀ q : Port, (t.notice q).enable = (s.notice q).enable ∧
        ∀ j : Idx, (t.notice q).pending[j] = if j = i then none else (s.notice q).pending[j]

/-- TAKE_NOTICE removes the entry with the lowest index from the issuing port's set and answers it with the number
left; on an empty set it answers no notice.
ACK_NOTICE removes the named entry of the issuing port's set and answers whether there was one, and
SET_NOTICE_ENABLE sets the port's enable and answers the one before; an operand out of range is refused. -/
def Obligations.NoticeCommandsServed : Prop :=
  (∀ (p : Port) (s : State), (s.port p).inExec = some (.takeNotice p) →
    ((∀ i : Idx, (s.notice p).pending[i] = none) →
      exec (.takeNotice p) s = .next (s.answers p (.ok (List.replicate 17 0)))) ∧
    ∀ (i : Idx) (n : Notice), (s.notice p).pending[i] = some n → n.snap.index = i →
      (∀ j < i, (s.notice p).pending[j] = none) →
      exec (.takeNotice p) s = .next ((s.setNotice p { s.notice p with
        pending := (s.notice p).pending.set i none }).answers p (.ok
          ([1, BitVec.ofNat 8 ((Finset.univ.filter fun j : Idx => (s.notice p).pending[j] ≠ none).card - 1),
              BitVec.ofNat 8 i.val] ++ field 2 n.snap.tag.toNat ++
            [n.snap.outcome.code, n.snap.cause.code,
              BitVec.ofNat 8 ((if n.snap.failing.isSome then 1 else 0) + (if n.overrun then 2 else 0)),
              BitVec.ofNat 8 (n.snap.failing.getD 0)] ++
            field 6 n.snap.concludedAt.toNat ++ field 2 n.snap.cycles.toNat)))) ∧
  ∀ (p : Port) (b : Byte) (s : State),
    ((s.port p).inExec = some (.ackNotice p b) →
      (63 < b.toNat → exec (.ackNotice p b) s = .next (s.answers p (.refuse .badArgument))) ∧
      ∀ i : Idx, b.toNat = i.val → exec (.ackNotice p b) s = .next ((s.setNotice p { s.notice p with
        pending := (s.notice p).pending.set i none }).answers p
          (.ok [if (s.notice p).pending[i] = none then 0 else 1]))) ∧
    ((s.port p).inExec = some (.setNoticeEnable p b) →
      (1 < b.toNat → exec (.setNoticeEnable p b) s = .next (s.answers p (.refuse .badArgument))) ∧
      (b.toNat ≤ 1 → exec (.setNoticeEnable p b) s = .next ((s.setNotice p { s.notice p with
        enable := b = 1 }).answers p (.ok [if (s.notice p).enable then 1 else 0]))))

/-! ### Ports and resets -/

/-- PEEK_NOTICES answers the map and the number of the issuing port's pending entries, and changes no state. -/
def Obligations.PeekNoticesAnswers : Prop :=
  ∀ (p : Port) (s : State), (s.port p).inExec = some (.peekNotices p) →
    exec (.peekNotices p) s = .next (s.answers p (.ok
      (field 8 (markMap fun i : Idx => (s.notice p).pending[i].isSome) ++
        [BitVec.ofNat 8 (Finset.univ.filter fun i : Idx => (s.notice p).pending[i] ≠ none).card])))

/-- The first byte of a transaction. A start with another address, the general call among them, changes nothing. The
opening captures the status byte, with the fixed mark, the port's state, its marks and NOTICE, on port A and in a read
of port B, and such a read judges then what it returns. The last bit of the status byte clears the sticky marks it
carries, and no other. An unknown transfer code sets FRAME and a STATUS code changes nothing. A first byte taken whole is its
three moments in turn (log 7). -/
def Obligations.StatusShiftsMarks : Prop :=
  (∀ (a code : Byte) (h : HeadPart) (part : TransactionPart) (s : State), a.toNat / 2 ≠ s.portBAddress.toNat →
    ∀ c ∈ [Instr.command { opening := .start a code, part := h }, .fetch .B (.start a code) part,
      .abort { opening := .start a code, part := part }, .status (.start a code) part,
      .unknownTransferCode (.start a code) part], exec c s = .next s) ∧
  ∀ (p : Port) (o : Opening) (s : State), Hears s p o →
    let x := s.port p
    let byte : Byte := BitVec.ofNat 8 (128 + (if x.phase = .executing then 64 else 0) +
      (if x.phase = .holding then 32 else 0) + (if x.lostMark then 16 else 0) + (if x.frameMark then 8 else 0) +
      (if x.refusedMark then 4 else 0) + (if ∃ i : Idx, (s.notice p).pending[i] ≠ none then 2 else 0) +
      (if x.resetMark then 1 else 0))
    let leaves (h : HeadPart) (y : PortState) : Prop :=
      exec (headRow o h) s = .next { s with ports := s.ports.set p y }
    (x.bus = .free → leaves .opened { x with
      bus := .opened, out := []
      capture := if p = .A ∨ sentCode o = none then some byte else x.capture
      fetch := if sentCode o = none then some x.returned else x.fetch }) ∧
    (∀ k, x.capture = some k → p = .B ∨ x.bus = .running → leaves .shifted { x with
      bus := .running, capture := none, out := x.out ++ [k]
      lostMark := x.lostMark && !k.getLsbD 4, frameMark := x.frameMark && !k.getLsbD 3
      refusedMark := x.refusedMark && !k.getLsbD 2, resetMark := x.resetMark && !k.getLsbD 0 }) ∧
    (∀ code, sentCode o = some code → x.bus = .opened → p = .A ∨ x.capture = none →
      (code ∉ [0xA0, 0xA1, 0xA2, 0xA3] → leaves .code { x with bus := .running, frameMark := true }) ∧
      (code = 0xA3 → leaves .code { x with bus := .running })) ∧
    (x.bus = .free → ∃ t u v, exec (headRow o .opened) s = .next t ∧ exec (headRow o .code) t = .next u ∧
      exec (headRow o .shifted) u = .next v ∧ exec (headRow o .whole) s = .next v)

/-- A complete COMMAND code begins to receive its frame on a READY port, discards a held response and sets LOST on a
HOLDING one, and is refused with the REFUSED mark on an EXECUTING one.
A complete ABORT code discards a held response, sets the abort request of a command in execution and, on a sweep, its
stop request, and has no further effect. The capture of the status byte, the code and the clearing of the marks the
byte carries are moments of their own (log 7). -/
def Obligations.CommandAndAbortByState : Prop :=
  ∀ (p : Port) (o : Opening) (s : State), Hears s p o → (s.port p).bus = .opened →
    p = .A ∨ (s.port p).capture = none →
    let x : PortState := { s.port p with bus := .running }
    let command : Instr := .command { opening := o, part := .code }
    let abort : Instr := .abort { opening := o, part := .head .code }
    (sentCode o = some 0xA0 →
      (x.phase = .ready →
        exec command s = .next { s with ports := s.ports.set p { x with phase := .receiving } }) ∧
      (x.phase = .holding → exec command s = .next { s with ports := s.ports.set p { x with
        phase := .receiving, held := none, lostMark := true } }) ∧
      (x.phase = .executing → exec command s = .next { s with ports := s.ports.set p { x with
        refusedMark := true } })) ∧
    (sentCode o = some 0xA2 →
      (x.phase = .ready → exec abort s = .next { s with ports := s.ports.set p x }) ∧
      (x.phase = .holding →
        exec abort s = .next { s with ports := s.ports.set p { x with phase := .ready, held := none } }) ∧
      (x.phase = .executing → x.abort = true → exec abort s = .next { s with ports := s.ports.set p x }) ∧
      ∀ c, x.phase = .executing → x.abort = false → x.inExec = some c → exec abort s = .next { s with
        ports := s.ports.set p { x with abort := true }
        engine := if c.isSweep then { s.engine with
            sweeps := s.engine.sweeps.set p { s.sweep p with stop := true } }
          else s.engine })

/-- A received frame is judged when its transaction ends: a faulty one sets FRAME and frees the port, an unknown code
or a wrong length is answered by the port, IDENTIFY is answered by the port, and any other command is placed in
execution, with a request at the arbiter where the engine serves it. A port that is not receiving ignores the bytes.
IDENTIFY as a command of its own is the port's taking of its frame of three bytes (log 15). -/
def Obligations.FrameTaken : Prop :=
  ∀ (p : Port) (bytes : List Byte) (s : State), (s.port p).bus = .running → (s.port p).capture = none →
    (s.port p).fetch = none →
    let x := s.port p
    let ends (n : Nat) (y : PortState) : State := { s with ports := s.ports.set p { y with
      bus := .free, out := x.out ++ if p = .A then List.replicate n (0xFF : Byte) else [] } }
    let goes (y : PortState) : Prop := exec (.frameReceived p bytes) s = .next (ends bytes.length y)
    let identity : List Byte := [0x64, 0x24, 1, 64, 160, 6, 4, 24, 8, 8]
    (x.phase ≠ .receiving → goes x) ∧
    (x.phase = .receiving →
      (readFrame p bytes = .faulty → goes { x with phase := .ready, frameMark := true }) ∧
      (readFrame p bytes = .unknown → goes { x with phase := .holding, held := some (.refuse .unknownCommand) }) ∧
      (readFrame p bytes = .badLength → goes { x with phase := .holding, held := some (.refuse .badLength) }) ∧
      (readFrame p bytes = .sound (.identify p) → goes { x with phase := .holding, held := some (.ok identity) }) ∧
      (∀ c, readFrame p bytes = .sound c → c ≠ .identify p → goes { x with
        phase := .executing, inExec := some c, request := if c.isDirect then none else some .first }) ∧
      exec (.identify p) s = .next (ends 3 { x with phase := .holding, held := some (.ok identity) }))

/-- After the first byte of a transaction that carries no frame. A FETCH judges what it returns at its code on port A;
carried by a port B write it has no effect. Further bytes return the rest of the held frame and then FFh; with no fetch
they return FFh on port A (after an unknown code: log 28). The end of a complete fetch frees the held response and the
port is READY; any other leaves it; and a COMMAND that ends without a frame is faulty. A transaction taken whole is its
first byte, its further bytes and its end in turn (log 7, log 16), so a FETCH of a held response with `n` further bytes
frees it exactly when they reach the CRC. -/
def Obligations.FetchFreesHeld : Prop :=
  ∀ (p : Port) (o : Opening) (n : Nat) (s : State), Hears s p o → sentCode o ≠ some 0xA0 →
    let x := s.port p
    let leaves (part : TransactionPart) (y : PortState) : Prop :=
      exec (transactionRow o part) s = .next { s with ports := s.ports.set p y }
    let idle : PortState := { x with bus := .free, capture := none, fetch := none }
    (sentCode o = some 0xA1 → x.bus = .opened →
      (p = .A → leaves (.head .code) { x with bus := .running, fetch := some x.returned }) ∧
      (p = .B → x.capture = none → leaves (.head .code) { x with bus := .running })) ∧
    (x.bus = .running → x.capture = none → x.phase ≠ .receiving →
      (∀ f, x.fetch = some f → leaves (.clock n) { x with
        out := x.out ++ f.rest.take n ++ List.replicate (n - f.rest.length) 0xFF
        fetch := some { f with rest := f.rest.drop n } }) ∧
      (x.fetch = none → leaves (.clock n) { x with
        out := x.out ++ if p = .A then List.replicate n 0xFF else [] })) ∧
    (x.bus ≠ .free →
      (x.phase = .receiving → leaves .stop { idle with phase := .ready, frameMark := true }) ∧
      (∀ f, x.phase ≠ .receiving → x.fetch = some f → f.live = true → f.rest = [] →
        leaves .stop { idle with phase := .ready, held := none }) ∧
      (x.phase ≠ .receiving → (∀ f, x.fetch = some f → f.live = true → f.rest ≠ []) → leaves .stop idle)) ∧
    (x.bus = .free →
      (∃ t u v, exec (transactionRow o (.head .whole)) s = .next t ∧ exec (transactionRow o (.clock n)) t = .next u ∧
        exec (transactionRow o .stop) u = .next v ∧ exec (transactionRow o (.whole n)) s = .next v) ∧
      (sentCode o = none → exec (.status o (.whole 0)) s = exec (.fetch .B o (.whole 0)) s) ∧
      ∀ r, x.phase = .holding → x.held = some r → sentCode o = none ∨ sentCode o = some 0xA1 ∧ p = .A → ∃ t,
        exec (.fetch p o (.whole n)) s = .next t ∧
        (t.port p).out = s.statusByte p :: r.bytes.take n ++ List.replicate (n - r.bytes.length) 0xFF ∧
        (r.bytes.length ≤ n → (t.port p).phase = .ready ∧ (t.port p).held = none) ∧
        (n < r.bytes.length → (t.port p).phase = .holding ∧ (t.port p).held = some r))

/-- DEVICE_RESET frees the table and empties the paths, the notice sets and the queues, keeps the configurations, the
Timebase and the waiting configurations, abandons the other port's work, and completes with OK. RESET is set on both
ports, and a status byte captured before stays as it is. That a forwarded configuration and a level report carry the
port they answer, here none, is the model's form of R126, R145 and R194 (log 12). -/
def Obligations.DeviceResetClears : Prop :=
  ∀ (p : Port) (s : State), Offered s p (.deviceReset p) → ∃ t, exec (.deviceReset p) s = .next t ∧
    t.time = s.time ∧ t.portBAddress = s.portBAddress ∧ t.engine.table = Table.reset ∧ t.engine.tags = [] ∧
    t.engine.freeSlots = 160 ∧ t.engine.lastServed = .B ∧
    (∀ q, t.sweep q = { run := none, stop := false }) ∧
    (∀ l, t.view l = { s.view l with
        delivered := if (s.view l).enabled then (s.line l).accepted else .low } ∧
      t.line l = { s.line l with
        progress := 0, queue := [], edgeCount := 0, lostCount := 0
        report := (s.line l).report.map fun r => { r with reply := none } }) ∧
    t.lineUnit.sampleDivider = s.lineUnit.sampleDivider ∧
    t.lineUnit.sampleCounter = s.lineUnit.sampleCounter ∧
    t.dividerPath = s.dividerPath.map (fun r => { r with reply := none }) ∧
    t.linePath = s.linePath.map (fun r => { r with reply := none }) ∧
    (∀ o, t.output o = { s.output o with
      drivers := Vector.replicate 64 false, pulseEnd := none, count := 0 }) ∧
    (∀ q, (t.notice q).enable = (s.notice q).enable ∧ ∀ i : Idx, (t.notice q).pending[i] = none) ∧
    t.port p = ({ s.port p with resetMark := true }).answered (.ok []) ∧
    let y := s.port (otherPort p)
    t.port (otherPort p) = { y with
      phase := .ready, inExec := none, request := none, held := none, abort := false, resetMark := true
      fetch := y.fetch.map fun _ => { rest := [], live := false } }

/-- HARDWARE_RESET: every block holds the values its rule gives, port B samples its address pins, and the queue of
waiting commands, which is the model's own, stays, the record of returned bytes is empty, and the levels at the event
line pins stay (log 5, log 6, log 19). -/
def Obligations.HardwareResetValues : Prop :=
  ∀ (addr : BitVec 2) (s : State), ∃ t, exec (.hardwareReset addr) s = .next t ∧ t.pending = s.pending ∧ t.pins = s.pins ∧
    t.portBAddress.toNat = 0x38 + addr.toNat ∧ t.engine.table = Table.reset ∧ t.engine.tags = [] ∧
    t.engine.freeSlots = 160 ∧ t.engine.lastServed = .B ∧ (∀ i, t.engine.watch i = Watch.free) ∧
    (∀ q, t.sweep q = { run := none, stop := false }) ∧
    t.time = { now := 0, divider := 1000, partialCount := 0, hold := .running } ∧
    t.dividerPath = [] ∧ t.linePath = [] ∧ t.lineUnit.sampleDivider = 100 ∧ t.lineUnit.sampleCounter = 0 ∧
    (∀ l, t.view l = { enabled := false, delivered := .low, mark := false } ∧ t.line l = {
      config := { enable := false, polarity := .normal, filter := 3 }, masked := false, progress := 0
      accepted := .low, queue := [], edgeCount := 0, lostCount := 0, report := none }) ∧
    (∀ o, t.output o = {
        mode := .latch, width := 100, polarity := .activeHigh, force := .auto
        drivers := Vector.replicate 64 false, pulseEnd := none, count := 0 } ∧
      (t.output o).pin t.time.now = false) ∧
    (∀ q, (t.notice q).asserted = false ∧ (t.notice q).enable = false ∧
      ∀ i : Idx, (t.notice q).pending[i] = none) ∧
    ∀ q, t.port q = {
      phase := .ready, inExec := none, request := none, held := none, abort := false, lostMark := false
      frameMark := false, refusedMark := false, resetMark := true, bus := .free, capture := none, fetch := none
      out := [] }

/-- The active state and the pin of an output follow its force state, mode, claims and pulse (R155), and a notice line
is asserted exactly when its enable is on and its set is not empty (R175). They are computed, not stored (log 10). -/
def Obligations.PinsDerived : Prop :=
  (∀ (x : OutputState) (now : Time), (x.active now = true ↔ x.force = .on ∨ x.force = .auto ∧
      (x.mode = .latch ∧ (∃ i : Idx, x.drivers[i] = true) ∨
        x.mode = .pulse ∧ ∃ e, x.pulseEnd = some e ∧ 2 ^ 47 ≤ (now - e).toNat)) ∧
    (x.pin now = true ↔ (x.active now = true ↔ x.polarity = .activeHigh))) ∧
  ∀ x : NoticeState, x.asserted = true ↔ x.enable = true ∧ ∃ i : Idx, x.pending[i] ≠ none

/-! ### Invariants -/

/-- The machine after reset meets every invariant. -/
def Obligations.ResetMeetsInvariants : Prop :=
  PoolInv State.reset.engine ∧ ListsInv State.reset.engine.table ∧ RecordsInv State.reset.engine ∧
    PortsInv State.reset ∧ UnitsInv State.reset ∧ EnabledInv State.reset ∧ OutputsInv State.reset ∧
    NoticesInv State.reset

/-- Every step keeps the balance of the step pool. -/
def Obligations.StepKeepsPool : Prop :=
  ∀ s t : State, PoolInv s.engine → step s = .next t → PoolInv t.engine

/-- Every step keeps the lists of the engine to live watches, each once, for their current steps. -/
def Obligations.StepKeepsLists : Prop :=
  ∀ s t : State, ListsInv s.engine.table → step s = .next t → ListsInv t.engine.table

/-- Every step keeps the records and the tag map well formed. -/
def Obligations.StepKeepsRecords : Prop :=
  ∀ s t : State, ListsInv s.engine.table → RecordsInv s.engine → step s = .next t → RecordsInv t.engine

/-- Every step keeps each port's items fitting its state and the transaction on its bus. -/
def Obligations.StepKeepsPorts : Prop :=
  ∀ s t : State, PortsInv s → step s = .next t → PortsInv t

/-- Every step keeps the counters below their dividers, the lines well formed, the outputs well formed, and each pending
notice and each waiting post the snapshot of a conclusion, a notice under its own index. -/
def Obligations.StepKeepsUnits : Prop :=
  (∀ s t : State, UnitsInv s → step s = .next t → UnitsInv t) ∧
  (∀ s t : State, OutputsInv s → step s = .next t → OutputsInv t) ∧
  ∀ s t : State, NoticesInv s → step s = .next t → NoticesInv t

/-- Every step keeps every line named by a live watch enabled in the engine line view. -/
def Obligations.StepKeepsEnabled : Prop :=
  ∀ s t : State, ListsInv s.engine.table → EnabledInv s → step s = .next t → EnabledInv t
end

