-- ==== Sys2Proof/Laws/State.lean ====
section
/-! SUPPORT. One lemma per field per update of the state, of the engine and of the table: what each named update leaves
alone, and what it writes. All are true by rfl. -/

namespace Sys2Proof.Machine

open Sys2Proof

/-! ### State -/

@[simp] theorem State.setEngine_engine (s : State) (e : Engine) : (s.setEngine e).engine = e := rfl
@[simp] theorem State.setEngine_time (s : State) (e : Engine) : (s.setEngine e).time = s.time := rfl
@[simp] theorem State.setEngine_dividerPath (s : State) (e : Engine) :
    (s.setEngine e).dividerPath = s.dividerPath := rfl
@[simp] theorem State.setEngine_linePath (s : State) (e : Engine) : (s.setEngine e).linePath = s.linePath := rfl
@[simp] theorem State.setEngine_lineUnit (s : State) (e : Engine) : (s.setEngine e).lineUnit = s.lineUnit := rfl
@[simp] theorem State.setEngine_outputs (s : State) (e : Engine) : (s.setEngine e).outputs = s.outputs := rfl
@[simp] theorem State.setEngine_notices (s : State) (e : Engine) : (s.setEngine e).notices = s.notices := rfl
@[simp] theorem State.setEngine_ports (s : State) (e : Engine) : (s.setEngine e).ports = s.ports := rfl
@[simp] theorem State.setEngine_portBAddress (s : State) (e : Engine) :
    (s.setEngine e).portBAddress = s.portBAddress := rfl
@[simp] theorem State.setEngine_pending (s : State) (e : Engine) : (s.setEngine e).pending = s.pending := rfl
@[simp] theorem State.setEngine_pins (s : State) (e : Engine) : (s.setEngine e).pins = s.pins := rfl

@[simp] theorem State.setPort_engine (s : State) (p : Port) (x : PortState) : (s.setPort p x).engine = s.engine := rfl
@[simp] theorem State.setPort_time (s : State) (p : Port) (x : PortState) : (s.setPort p x).time = s.time := rfl
@[simp] theorem State.setPort_dividerPath (s : State) (p : Port) (x : PortState) :
    (s.setPort p x).dividerPath = s.dividerPath := rfl
@[simp] theorem State.setPort_linePath (s : State) (p : Port) (x : PortState) :
    (s.setPort p x).linePath = s.linePath := rfl
@[simp] theorem State.setPort_lineUnit (s : State) (p : Port) (x : PortState) :
    (s.setPort p x).lineUnit = s.lineUnit := rfl
@[simp] theorem State.setPort_outputs (s : State) (p : Port) (x : PortState) :
    (s.setPort p x).outputs = s.outputs := rfl
@[simp] theorem State.setPort_notices (s : State) (p : Port) (x : PortState) :
    (s.setPort p x).notices = s.notices := rfl
@[simp] theorem State.setPort_ports (s : State) (p : Port) (x : PortState) :
    (s.setPort p x).ports = s.ports.set p x := rfl
@[simp] theorem State.setPort_portBAddress (s : State) (p : Port) (x : PortState) :
    (s.setPort p x).portBAddress = s.portBAddress := rfl
@[simp] theorem State.setPort_pending (s : State) (p : Port) (x : PortState) :
    (s.setPort p x).pending = s.pending := rfl
@[simp] theorem State.setPort_pins (s : State) (p : Port) (x : PortState) :
    (s.setPort p x).pins = s.pins := rfl

@[simp] theorem State.setSweep_engine (s : State) (p : Port) (r : SweepRecord) :
    (s.setSweep p r).engine = { s.engine with sweeps := s.engine.sweeps.set p r } := rfl
@[simp] theorem State.setSweep_time (s : State) (p : Port) (r : SweepRecord) : (s.setSweep p r).time = s.time := rfl
@[simp] theorem State.setSweep_dividerPath (s : State) (p : Port) (r : SweepRecord) :
    (s.setSweep p r).dividerPath = s.dividerPath := rfl
@[simp] theorem State.setSweep_linePath (s : State) (p : Port) (r : SweepRecord) :
    (s.setSweep p r).linePath = s.linePath := rfl
@[simp] theorem State.setSweep_lineUnit (s : State) (p : Port) (r : SweepRecord) :
    (s.setSweep p r).lineUnit = s.lineUnit := rfl
@[simp] theorem State.setSweep_outputs (s : State) (p : Port) (r : SweepRecord) :
    (s.setSweep p r).outputs = s.outputs := rfl
@[simp] theorem State.setSweep_notices (s : State) (p : Port) (r : SweepRecord) :
    (s.setSweep p r).notices = s.notices := rfl
@[simp] theorem State.setSweep_ports (s : State) (p : Port) (r : SweepRecord) :
    (s.setSweep p r).ports = s.ports := rfl
@[simp] theorem State.setSweep_portBAddress (s : State) (p : Port) (r : SweepRecord) :
    (s.setSweep p r).portBAddress = s.portBAddress := rfl
@[simp] theorem State.setSweep_pending (s : State) (p : Port) (r : SweepRecord) :
    (s.setSweep p r).pending = s.pending := rfl
@[simp] theorem State.setSweep_pins (s : State) (p : Port) (r : SweepRecord) :
    (s.setSweep p r).pins = s.pins := rfl

@[simp] theorem State.setLine_engine (s : State) (l : Line) (x : LineState) : (s.setLine l x).engine = s.engine := rfl
@[simp] theorem State.setLine_time (s : State) (l : Line) (x : LineState) : (s.setLine l x).time = s.time := rfl
@[simp] theorem State.setLine_dividerPath (s : State) (l : Line) (x : LineState) :
    (s.setLine l x).dividerPath = s.dividerPath := rfl
@[simp] theorem State.setLine_linePath (s : State) (l : Line) (x : LineState) :
    (s.setLine l x).linePath = s.linePath := rfl
@[simp] theorem State.setLine_lineUnit (s : State) (l : Line) (x : LineState) :
    (s.setLine l x).lineUnit = { s.lineUnit with lines := s.lineUnit.lines.set l x } := rfl
@[simp] theorem State.setLine_outputs (s : State) (l : Line) (x : LineState) :
    (s.setLine l x).outputs = s.outputs := rfl
@[simp] theorem State.setLine_notices (s : State) (l : Line) (x : LineState) :
    (s.setLine l x).notices = s.notices := rfl
@[simp] theorem State.setLine_ports (s : State) (l : Line) (x : LineState) : (s.setLine l x).ports = s.ports := rfl
@[simp] theorem State.setLine_portBAddress (s : State) (l : Line) (x : LineState) :
    (s.setLine l x).portBAddress = s.portBAddress := rfl
@[simp] theorem State.setLine_pending (s : State) (l : Line) (x : LineState) :
    (s.setLine l x).pending = s.pending := rfl
@[simp] theorem State.setLine_pins (s : State) (l : Line) (x : LineState) :
    (s.setLine l x).pins = s.pins := rfl

@[simp] theorem State.setView_engine (s : State) (l : Line) (v : LineView) :
    (s.setView l v).engine = { s.engine with view := s.engine.view.set l v } := rfl
@[simp] theorem State.setView_time (s : State) (l : Line) (v : LineView) : (s.setView l v).time = s.time := rfl
@[simp] theorem State.setView_dividerPath (s : State) (l : Line) (v : LineView) :
    (s.setView l v).dividerPath = s.dividerPath := rfl
@[simp] theorem State.setView_linePath (s : State) (l : Line) (v : LineView) :
    (s.setView l v).linePath = s.linePath := rfl
@[simp] theorem State.setView_lineUnit (s : State) (l : Line) (v : LineView) :
    (s.setView l v).lineUnit = s.lineUnit := rfl
@[simp] theorem State.setView_outputs (s : State) (l : Line) (v : LineView) :
    (s.setView l v).outputs = s.outputs := rfl
@[simp] theorem State.setView_notices (s : State) (l : Line) (v : LineView) :
    (s.setView l v).notices = s.notices := rfl
@[simp] theorem State.setView_ports (s : State) (l : Line) (v : LineView) : (s.setView l v).ports = s.ports := rfl
@[simp] theorem State.setView_portBAddress (s : State) (l : Line) (v : LineView) :
    (s.setView l v).portBAddress = s.portBAddress := rfl
@[simp] theorem State.setView_pending (s : State) (l : Line) (v : LineView) :
    (s.setView l v).pending = s.pending := rfl
@[simp] theorem State.setView_pins (s : State) (l : Line) (v : LineView) :
    (s.setView l v).pins = s.pins := rfl

@[simp] theorem State.setOutput_engine (s : State) (o : Output) (x : OutputState) :
    (s.setOutput o x).engine = s.engine := rfl
@[simp] theorem State.setOutput_time (s : State) (o : Output) (x : OutputState) :
    (s.setOutput o x).time = s.time := rfl
@[simp] theorem State.setOutput_dividerPath (s : State) (o : Output) (x : OutputState) :
    (s.setOutput o x).dividerPath = s.dividerPath := rfl
@[simp] theorem State.setOutput_linePath (s : State) (o : Output) (x : OutputState) :
    (s.setOutput o x).linePath = s.linePath := rfl
@[simp] theorem State.setOutput_lineUnit (s : State) (o : Output) (x : OutputState) :
    (s.setOutput o x).lineUnit = s.lineUnit := rfl
@[simp] theorem State.setOutput_outputs (s : State) (o : Output) (x : OutputState) :
    (s.setOutput o x).outputs = s.outputs.set o x := rfl
@[simp] theorem State.setOutput_notices (s : State) (o : Output) (x : OutputState) :
    (s.setOutput o x).notices = s.notices := rfl
@[simp] theorem State.setOutput_ports (s : State) (o : Output) (x : OutputState) :
    (s.setOutput o x).ports = s.ports := rfl
@[simp] theorem State.setOutput_portBAddress (s : State) (o : Output) (x : OutputState) :
    (s.setOutput o x).portBAddress = s.portBAddress := rfl
@[simp] theorem State.setOutput_pending (s : State) (o : Output) (x : OutputState) :
    (s.setOutput o x).pending = s.pending := rfl
@[simp] theorem State.setOutput_pins (s : State) (o : Output) (x : OutputState) :
    (s.setOutput o x).pins = s.pins := rfl

@[simp] theorem State.setNotice_engine (s : State) (p : Port) (x : NoticeState) :
    (s.setNotice p x).engine = s.engine := rfl
@[simp] theorem State.setNotice_time (s : State) (p : Port) (x : NoticeState) : (s.setNotice p x).time = s.time := rfl
@[simp] theorem State.setNotice_dividerPath (s : State) (p : Port) (x : NoticeState) :
    (s.setNotice p x).dividerPath = s.dividerPath := rfl
@[simp] theorem State.setNotice_linePath (s : State) (p : Port) (x : NoticeState) :
    (s.setNotice p x).linePath = s.linePath := rfl
@[simp] theorem State.setNotice_lineUnit (s : State) (p : Port) (x : NoticeState) :
    (s.setNotice p x).lineUnit = s.lineUnit := rfl
@[simp] theorem State.setNotice_outputs (s : State) (p : Port) (x : NoticeState) :
    (s.setNotice p x).outputs = s.outputs := rfl
@[simp] theorem State.setNotice_notices (s : State) (p : Port) (x : NoticeState) :
    (s.setNotice p x).notices = s.notices.set p x := rfl
@[simp] theorem State.setNotice_ports (s : State) (p : Port) (x : NoticeState) :
    (s.setNotice p x).ports = s.ports := rfl
@[simp] theorem State.setNotice_portBAddress (s : State) (p : Port) (x : NoticeState) :
    (s.setNotice p x).portBAddress = s.portBAddress := rfl
@[simp] theorem State.setNotice_pending (s : State) (p : Port) (x : NoticeState) :
    (s.setNotice p x).pending = s.pending := rfl
@[simp] theorem State.setNotice_pins (s : State) (p : Port) (x : NoticeState) :
    (s.setNotice p x).pins = s.pins := rfl

@[simp] theorem State.setOutPath_engine (s : State) (path : List OutReq) :
    (s.setOutPath path).engine = s.engine.withTable { s.engine.table with outPath := path } := rfl
@[simp] theorem State.setOutPath_time (s : State) (path : List OutReq) : (s.setOutPath path).time = s.time := rfl
@[simp] theorem State.setOutPath_dividerPath (s : State) (path : List OutReq) :
    (s.setOutPath path).dividerPath = s.dividerPath := rfl
@[simp] theorem State.setOutPath_linePath (s : State) (path : List OutReq) :
    (s.setOutPath path).linePath = s.linePath := rfl
@[simp] theorem State.setOutPath_lineUnit (s : State) (path : List OutReq) :
    (s.setOutPath path).lineUnit = s.lineUnit := rfl
@[simp] theorem State.setOutPath_outputs (s : State) (path : List OutReq) :
    (s.setOutPath path).outputs = s.outputs := rfl
@[simp] theorem State.setOutPath_notices (s : State) (path : List OutReq) :
    (s.setOutPath path).notices = s.notices := rfl
@[simp] theorem State.setOutPath_ports (s : State) (path : List OutReq) : (s.setOutPath path).ports = s.ports := rfl
@[simp] theorem State.setOutPath_portBAddress (s : State) (path : List OutReq) :
    (s.setOutPath path).portBAddress = s.portBAddress := rfl
@[simp] theorem State.setOutPath_pending (s : State) (path : List OutReq) :
    (s.setOutPath path).pending = s.pending := rfl
@[simp] theorem State.setOutPath_pins (s : State) (path : List OutReq) :
    (s.setOutPath path).pins = s.pins := rfl

@[simp] theorem State.setNoticePath_engine (s : State) (path : List NoticeReq) :
    (s.setNoticePath path).engine = s.engine.withTable { s.engine.table with noticePath := path } := rfl
@[simp] theorem State.setNoticePath_time (s : State) (path : List NoticeReq) :
    (s.setNoticePath path).time = s.time := rfl
@[simp] theorem State.setNoticePath_dividerPath (s : State) (path : List NoticeReq) :
    (s.setNoticePath path).dividerPath = s.dividerPath := rfl
@[simp] theorem State.setNoticePath_linePath (s : State) (path : List NoticeReq) :
    (s.setNoticePath path).linePath = s.linePath := rfl
@[simp] theorem State.setNoticePath_lineUnit (s : State) (path : List NoticeReq) :
    (s.setNoticePath path).lineUnit = s.lineUnit := rfl
@[simp] theorem State.setNoticePath_outputs (s : State) (path : List NoticeReq) :
    (s.setNoticePath path).outputs = s.outputs := rfl
@[simp] theorem State.setNoticePath_notices (s : State) (path : List NoticeReq) :
    (s.setNoticePath path).notices = s.notices := rfl
@[simp] theorem State.setNoticePath_ports (s : State) (path : List NoticeReq) :
    (s.setNoticePath path).ports = s.ports := rfl
@[simp] theorem State.setNoticePath_portBAddress (s : State) (path : List NoticeReq) :
    (s.setNoticePath path).portBAddress = s.portBAddress := rfl
@[simp] theorem State.setNoticePath_pending (s : State) (path : List NoticeReq) :
    (s.setNoticePath path).pending = s.pending := rfl
@[simp] theorem State.setNoticePath_pins (s : State) (path : List NoticeReq) :
    (s.setNoticePath path).pins = s.pins := rfl

@[simp] theorem State.pass_engine (s : State) (p : Port) :
    (s.pass p).engine = { s.engine with lastServed := p } := rfl
@[simp] theorem State.pass_time (s : State) (p : Port) : (s.pass p).time = s.time := rfl
@[simp] theorem State.pass_dividerPath (s : State) (p : Port) : (s.pass p).dividerPath = s.dividerPath := rfl
@[simp] theorem State.pass_linePath (s : State) (p : Port) : (s.pass p).linePath = s.linePath := rfl
@[simp] theorem State.pass_lineUnit (s : State) (p : Port) : (s.pass p).lineUnit = s.lineUnit := rfl
@[simp] theorem State.pass_outputs (s : State) (p : Port) : (s.pass p).outputs = s.outputs := rfl
@[simp] theorem State.pass_notices (s : State) (p : Port) : (s.pass p).notices = s.notices := rfl
@[simp] theorem State.pass_ports (s : State) (p : Port) :
    (s.pass p).ports = s.ports.set p { s.port p with request := none } := rfl
@[simp] theorem State.pass_portBAddress (s : State) (p : Port) : (s.pass p).portBAddress = s.portBAddress := rfl
@[simp] theorem State.pass_pending (s : State) (p : Port) : (s.pass p).pending = s.pending := rfl
@[simp] theorem State.pass_pins (s : State) (p : Port) : (s.pass p).pins = s.pins := rfl

@[simp] theorem State.complete_engine (s : State) (p : Port) (r : Response) :
    (s.complete p r).engine = s.engine := rfl
@[simp] theorem State.complete_time (s : State) (p : Port) (r : Response) : (s.complete p r).time = s.time := rfl
@[simp] theorem State.complete_dividerPath (s : State) (p : Port) (r : Response) :
    (s.complete p r).dividerPath = s.dividerPath := rfl
@[simp] theorem State.complete_linePath (s : State) (p : Port) (r : Response) :
    (s.complete p r).linePath = s.linePath := rfl
@[simp] theorem State.complete_lineUnit (s : State) (p : Port) (r : Response) :
    (s.complete p r).lineUnit = s.lineUnit := rfl
@[simp] theorem State.complete_outputs (s : State) (p : Port) (r : Response) :
    (s.complete p r).outputs = s.outputs := rfl
@[simp] theorem State.complete_notices (s : State) (p : Port) (r : Response) :
    (s.complete p r).notices = s.notices := rfl
@[simp] theorem State.complete_ports (s : State) (p : Port) (r : Response) :
    (s.complete p r).ports = s.ports.set p ((s.port p).complete r) := rfl
@[simp] theorem State.complete_portBAddress (s : State) (p : Port) (r : Response) :
    (s.complete p r).portBAddress = s.portBAddress := rfl
@[simp] theorem State.complete_pending (s : State) (p : Port) (r : Response) :
    (s.complete p r).pending = s.pending := rfl
@[simp] theorem State.complete_pins (s : State) (p : Port) (r : Response) :
    (s.complete p r).pins = s.pins := rfl

/-! ### Engine -/

@[simp] theorem Engine.withTable_table (e : Engine) (T : Table) : (e.withTable T).table = T := rfl
@[simp] theorem Engine.withTable_view (e : Engine) (T : Table) : (e.withTable T).view = e.view := rfl
@[simp] theorem Engine.withTable_tags (e : Engine) (T : Table) : (e.withTable T).tags = e.tags := rfl
@[simp] theorem Engine.withTable_freeSlots (e : Engine) (T : Table) : (e.withTable T).freeSlots = e.freeSlots := rfl
@[simp] theorem Engine.withTable_sweeps (e : Engine) (T : Table) : (e.withTable T).sweeps = e.sweeps := rfl
@[simp] theorem Engine.withTable_lastServed (e : Engine) (T : Table) :
    (e.withTable T).lastServed = e.lastServed := rfl

@[simp] theorem Engine.modify_table (e : Engine) (i : Idx) (f : Watch → Watch) :
    (e.modify i f).table = e.table.modify i f := rfl
@[simp] theorem Engine.modify_view (e : Engine) (i : Idx) (f : Watch → Watch) : (e.modify i f).view = e.view := rfl
@[simp] theorem Engine.modify_tags (e : Engine) (i : Idx) (f : Watch → Watch) : (e.modify i f).tags = e.tags := rfl
@[simp] theorem Engine.modify_freeSlots (e : Engine) (i : Idx) (f : Watch → Watch) :
    (e.modify i f).freeSlots = e.freeSlots := rfl
@[simp] theorem Engine.modify_sweeps (e : Engine) (i : Idx) (f : Watch → Watch) :
    (e.modify i f).sweeps = e.sweeps := rfl
@[simp] theorem Engine.modify_lastServed (e : Engine) (i : Idx) (f : Watch → Watch) :
    (e.modify i f).lastServed = e.lastServed := rfl

@[simp] theorem Engine.freeWatch_table (e : Engine) (i : Idx) :
    (e.freeWatch i).table = ((e.table.sendOut (.purge i)).sendNotice (.purge i)).setWatch i Watch.free := rfl
@[simp] theorem Engine.freeWatch_view (e : Engine) (i : Idx) : (e.freeWatch i).view = e.view := rfl
@[simp] theorem Engine.freeWatch_tags (e : Engine) (i : Idx) :
    (e.freeWatch i).tags = e.tags.filter (fun x => x.2 ≠ i) := rfl
@[simp] theorem Engine.freeWatch_freeSlots (e : Engine) (i : Idx) :
    (e.freeWatch i).freeSlots = e.freeSlots + (e.watch i).steps.length := rfl
@[simp] theorem Engine.freeWatch_sweeps (e : Engine) (i : Idx) : (e.freeWatch i).sweeps = e.sweeps := rfl
@[simp] theorem Engine.freeWatch_lastServed (e : Engine) (i : Idx) : (e.freeWatch i).lastServed = e.lastServed := rfl

/-! ### Table -/

@[simp] theorem Table.setWatch_watches (T : Table) (i : Idx) (w : Watch) :
    (T.setWatch i w).watches = T.watches.set i w := rfl
@[simp] theorem Table.setWatch_listeners (T : Table) (i : Idx) (w : Watch) :
    (T.setWatch i w).listeners = T.listeners := rfl
@[simp] theorem Table.setWatch_followers (T : Table) (i : Idx) (w : Watch) :
    (T.setWatch i w).followers = T.followers := rfl
@[simp] theorem Table.setWatch_deadlines (T : Table) (i : Idx) (w : Watch) :
    (T.setWatch i w).deadlines = T.deadlines := rfl
@[simp] theorem Table.setWatch_outPath (T : Table) (i : Idx) (w : Watch) : (T.setWatch i w).outPath = T.outPath := rfl
@[simp] theorem Table.setWatch_noticePath (T : Table) (i : Idx) (w : Watch) :
    (T.setWatch i w).noticePath = T.noticePath := rfl

@[simp] theorem Table.modify_watches (T : Table) (i : Idx) (f : Watch → Watch) :
    (T.modify i f).watches = T.watches.set i (f (T.watch i)) := rfl
@[simp] theorem Table.modify_listeners (T : Table) (i : Idx) (f : Watch → Watch) :
    (T.modify i f).listeners = T.listeners := rfl
@[simp] theorem Table.modify_followers (T : Table) (i : Idx) (f : Watch → Watch) :
    (T.modify i f).followers = T.followers := rfl
@[simp] theorem Table.modify_deadlines (T : Table) (i : Idx) (f : Watch → Watch) :
    (T.modify i f).deadlines = T.deadlines := rfl
@[simp] theorem Table.modify_outPath (T : Table) (i : Idx) (f : Watch → Watch) :
    (T.modify i f).outPath = T.outPath := rfl
@[simp] theorem Table.modify_noticePath (T : Table) (i : Idx) (f : Watch → Watch) :
    (T.modify i f).noticePath = T.noticePath := rfl

@[simp] theorem Table.join_watches (T : Table) (l : Line) (i : Idx) (r : Role) :
    (T.join l i r).watches = T.watches := rfl
@[simp] theorem Table.join_listeners (T : Table) (l : Line) (i : Idx) (r : Role) :
    (T.join l i r).listeners = T.listeners.set l (T.listenersOf l ++ [{ watch := i, role := r }]) := rfl
@[simp] theorem Table.join_followers (T : Table) (l : Line) (i : Idx) (r : Role) :
    (T.join l i r).followers = T.followers := rfl
@[simp] theorem Table.join_deadlines (T : Table) (l : Line) (i : Idx) (r : Role) :
    (T.join l i r).deadlines = T.deadlines := rfl
@[simp] theorem Table.join_outPath (T : Table) (l : Line) (i : Idx) (r : Role) :
    (T.join l i r).outPath = T.outPath := rfl
@[simp] theorem Table.join_noticePath (T : Table) (l : Line) (i : Idx) (r : Role) :
    (T.join l i r).noticePath = T.noticePath := rfl

@[simp] theorem Table.leaveLines_watches (T : Table) (i : Idx) : (T.leaveLines i).watches = T.watches := rfl
@[simp] theorem Table.leaveLines_listeners (T : Table) (i : Idx) :
    (T.leaveLines i).listeners = T.listeners.map (fun ls => ls.filter (fun x => x.watch ≠ i)) := rfl
@[simp] theorem Table.leaveLines_followers (T : Table) (i : Idx) : (T.leaveLines i).followers = T.followers := rfl
@[simp] theorem Table.leaveLines_deadlines (T : Table) (i : Idx) : (T.leaveLines i).deadlines = T.deadlines := rfl
@[simp] theorem Table.leaveLines_outPath (T : Table) (i : Idx) : (T.leaveLines i).outPath = T.outPath := rfl
@[simp] theorem Table.leaveLines_noticePath (T : Table) (i : Idx) : (T.leaveLines i).noticePath = T.noticePath := rfl

@[simp] theorem Table.follow_watches (T : Table) (t : Idx) (i : Idx) : (T.follow t i).watches = T.watches := rfl
@[simp] theorem Table.follow_listeners (T : Table) (t : Idx) (i : Idx) : (T.follow t i).listeners = T.listeners := rfl
@[simp] theorem Table.follow_followers (T : Table) (t : Idx) (i : Idx) :
    (T.follow t i).followers = T.followers.set t (T.followersOf t ++ [i]) := rfl
@[simp] theorem Table.follow_deadlines (T : Table) (t : Idx) (i : Idx) : (T.follow t i).deadlines = T.deadlines := rfl
@[simp] theorem Table.follow_outPath (T : Table) (t : Idx) (i : Idx) : (T.follow t i).outPath = T.outPath := rfl
@[simp] theorem Table.follow_noticePath (T : Table) (t : Idx) (i : Idx) :
    (T.follow t i).noticePath = T.noticePath := rfl

@[simp] theorem Table.unfollow_watches (T : Table) (t : Idx) (i : Idx) : (T.unfollow t i).watches = T.watches := rfl
@[simp] theorem Table.unfollow_listeners (T : Table) (t : Idx) (i : Idx) :
    (T.unfollow t i).listeners = T.listeners := rfl
@[simp] theorem Table.unfollow_followers (T : Table) (t : Idx) (i : Idx) :
    (T.unfollow t i).followers = T.followers.set t ((T.followersOf t).filter (fun x => x ≠ i)) := rfl
@[simp] theorem Table.unfollow_deadlines (T : Table) (t : Idx) (i : Idx) :
    (T.unfollow t i).deadlines = T.deadlines := rfl
@[simp] theorem Table.unfollow_outPath (T : Table) (t : Idx) (i : Idx) : (T.unfollow t i).outPath = T.outPath := rfl
@[simp] theorem Table.unfollow_noticePath (T : Table) (t : Idx) (i : Idx) :
    (T.unfollow t i).noticePath = T.noticePath := rfl

@[simp] theorem Table.clearFollowers_watches (T : Table) (t : Idx) : (T.clearFollowers t).watches = T.watches := rfl
@[simp] theorem Table.clearFollowers_listeners (T : Table) (t : Idx) :
    (T.clearFollowers t).listeners = T.listeners := rfl
@[simp] theorem Table.clearFollowers_followers (T : Table) (t : Idx) :
    (T.clearFollowers t).followers = T.followers.set t [] := rfl
@[simp] theorem Table.clearFollowers_deadlines (T : Table) (t : Idx) :
    (T.clearFollowers t).deadlines = T.deadlines := rfl
@[simp] theorem Table.clearFollowers_outPath (T : Table) (t : Idx) : (T.clearFollowers t).outPath = T.outPath := rfl
@[simp] theorem Table.clearFollowers_noticePath (T : Table) (t : Idx) :
    (T.clearFollowers t).noticePath = T.noticePath := rfl

@[simp] theorem Table.addDeadline_watches (T : Table) (now : Time) (i : Idx) (due : Time) (k : DeadlineKind) :
    (T.addDeadline now i due k).watches = T.watches := rfl
@[simp] theorem Table.addDeadline_listeners (T : Table) (now : Time) (i : Idx) (due : Time) (k : DeadlineKind) :
    (T.addDeadline now i due k).listeners = T.listeners := rfl
@[simp] theorem Table.addDeadline_followers (T : Table) (now : Time) (i : Idx) (due : Time) (k : DeadlineKind) :
    (T.addDeadline now i due k).followers = T.followers := rfl
@[simp] theorem Table.addDeadline_deadlines (T : Table) (now : Time) (i : Idx) (due : Time) (k : DeadlineKind) :
    (T.addDeadline now i due k).deadlines = insertDeadline now { watch := i, due := due, kind := k } T.deadlines := rfl
@[simp] theorem Table.addDeadline_outPath (T : Table) (now : Time) (i : Idx) (due : Time) (k : DeadlineKind) :
    (T.addDeadline now i due k).outPath = T.outPath := rfl
@[simp] theorem Table.addDeadline_noticePath (T : Table) (now : Time) (i : Idx) (due : Time) (k : DeadlineKind) :
    (T.addDeadline now i due k).noticePath = T.noticePath := rfl

@[simp] theorem Table.dropReachedLate_watches (T : Table) (now : Time) (i : Idx) :
    (T.dropReachedLate now i).watches = T.watches := rfl
@[simp] theorem Table.dropReachedLate_listeners (T : Table) (now : Time) (i : Idx) :
    (T.dropReachedLate now i).listeners = T.listeners := rfl
@[simp] theorem Table.dropReachedLate_followers (T : Table) (now : Time) (i : Idx) :
    (T.dropReachedLate now i).followers = T.followers := rfl
@[simp] theorem Table.dropReachedLate_deadlines (T : Table) (now : Time) (i : Idx) :
    (T.dropReachedLate now i).deadlines = T.deadlines.filter (fun d => !(d.watch = i && d.kind = .late && reached now d.due)) := rfl
@[simp] theorem Table.dropReachedLate_outPath (T : Table) (now : Time) (i : Idx) :
    (T.dropReachedLate now i).outPath = T.outPath := rfl
@[simp] theorem Table.dropReachedLate_noticePath (T : Table) (now : Time) (i : Idx) :
    (T.dropReachedLate now i).noticePath = T.noticePath := rfl

@[simp] theorem Table.dropDeadline_watches (T : Table) (i : Idx) : (T.dropDeadline i).watches = T.watches := rfl
@[simp] theorem Table.dropDeadline_listeners (T : Table) (i : Idx) : (T.dropDeadline i).listeners = T.listeners := rfl
@[simp] theorem Table.dropDeadline_followers (T : Table) (i : Idx) : (T.dropDeadline i).followers = T.followers := rfl
@[simp] theorem Table.dropDeadline_deadlines (T : Table) (i : Idx) :
    (T.dropDeadline i).deadlines = T.deadlines.filter (fun d => d.watch ≠ i) := rfl
@[simp] theorem Table.dropDeadline_outPath (T : Table) (i : Idx) : (T.dropDeadline i).outPath = T.outPath := rfl
@[simp] theorem Table.dropDeadline_noticePath (T : Table) (i : Idx) :
    (T.dropDeadline i).noticePath = T.noticePath := rfl

@[simp] theorem Table.sendOut_watches (T : Table) (r : OutReq) : (T.sendOut r).watches = T.watches := rfl
@[simp] theorem Table.sendOut_listeners (T : Table) (r : OutReq) : (T.sendOut r).listeners = T.listeners := rfl
@[simp] theorem Table.sendOut_followers (T : Table) (r : OutReq) : (T.sendOut r).followers = T.followers := rfl
@[simp] theorem Table.sendOut_deadlines (T : Table) (r : OutReq) : (T.sendOut r).deadlines = T.deadlines := rfl
@[simp] theorem Table.sendOut_outPath (T : Table) (r : OutReq) : (T.sendOut r).outPath = T.outPath ++ [r] := rfl
@[simp] theorem Table.sendOut_noticePath (T : Table) (r : OutReq) : (T.sendOut r).noticePath = T.noticePath := rfl

@[simp] theorem Table.sendNotice_watches (T : Table) (r : NoticeReq) : (T.sendNotice r).watches = T.watches := rfl
@[simp] theorem Table.sendNotice_listeners (T : Table) (r : NoticeReq) :
    (T.sendNotice r).listeners = T.listeners := rfl
@[simp] theorem Table.sendNotice_followers (T : Table) (r : NoticeReq) :
    (T.sendNotice r).followers = T.followers := rfl
@[simp] theorem Table.sendNotice_deadlines (T : Table) (r : NoticeReq) :
    (T.sendNotice r).deadlines = T.deadlines := rfl
@[simp] theorem Table.sendNotice_outPath (T : Table) (r : NoticeReq) : (T.sendNotice r).outPath = T.outPath := rfl
@[simp] theorem Table.sendNotice_noticePath (T : Table) (r : NoticeReq) :
    (T.sendNotice r).noticePath = T.noticePath ++ [r] := rfl

end Sys2Proof.Machine
end

