-- ==== Sys2Proof/Laws/Ops.lean ====
section
/-! SUPPORT. What the named operations do, said once: reading back a port, a record or a list after an update; the taking
of a command at the engine and at another block, and its completion; the checks of R8; the deadline list. -/

namespace Sys2Proof.Machine

open Sys2Proof

/-! ### One item for each port -/

@[simp] theorem PerPort.get_set_same {α : Type} (x : PerPort α) (p : Port) (v : α) : (x.set p v).get p = v := by
  cases p <;> rfl

theorem PerPort.get_set_ne {α : Type} (x : PerPort α) {p q : Port} (v : α) (h : q ≠ p) :
    (x.set p v).get q = x.get q := by
  cases p <;> cases q <;> first | rfl | exact absurd rfl h

@[simp] theorem PerPort.set_set {α : Type} (x : PerPort α) (p : Port) (u v : α) : (x.set p u).set p v = x.set p v := by
  cases p <;> rfl

@[simp] theorem PerPort.set_get {α : Type} (x : PerPort α) (p : Port) : x.set p (x.get p) = x := by
  cases p <;> rfl

@[simp] theorem otherPort_ne (p : Port) : otherPort p ≠ p := by cases p <;> decide

theorem eq_otherPort {p q : Port} (h : q ≠ p) : q = otherPort p := by
  cases p <;> cases q <;> first | rfl | exact absurd rfl h

@[simp] theorem State.port_setPort_same (s : State) (p : Port) (x : PortState) : (s.setPort p x).port p = x :=
  PerPort.get_set_same _ _ _

theorem State.port_setPort_ne (s : State) {p q : Port} (x : PortState) (h : q ≠ p) :
    (s.setPort p x).port q = s.port q :=
  PerPort.get_set_ne _ _ h

@[simp] theorem State.port_setEngine (s : State) (e : Engine) (p : Port) : (s.setEngine e).port p = s.port p := rfl

/-! ### Records and lists of the table -/

@[simp] theorem Table.watch_setWatch_same (T : Table) (i : Idx) (w : Watch) : (T.setWatch i w).watch i = w := by
  simp [Table.watch]

theorem Table.watch_setWatch_ne (T : Table) {i j : Idx} (w : Watch) (h : j ≠ i) :
    (T.setWatch i w).watch j = T.watch j := by
  have h' : i.val ≠ j.val := fun e => h (Fin.ext e.symm)
  simp [Table.watch, Vector.getElem_set_ne, h']

@[simp] theorem Table.watch_modify_same (T : Table) (i : Idx) (f : Watch → Watch) :
    (T.modify i f).watch i = f (T.watch i) :=
  Table.watch_setWatch_same _ _ _

theorem Table.watch_modify_ne (T : Table) {i j : Idx} (f : Watch → Watch) (h : j ≠ i) :
    (T.modify i f).watch j = T.watch j :=
  Table.watch_setWatch_ne _ _ h

theorem Table.watch_modify (T : Table) (i j : Idx) (f : Watch → Watch) :
    (T.modify i f).watch j = if j = i then f (T.watch i) else T.watch j := by
  split
  · next h => subst h; simp
  · next h => exact Table.watch_modify_ne _ _ h

/-- A record read after an operation that leaves the records alone. -/
theorem Table.watch_congr {T T' : Table} (h : T'.watches = T.watches) (i : Idx) : T'.watch i = T.watch i := by
  simp [Table.watch, h]

@[simp] theorem Table.watch_join (T : Table) (l : Line) (i j : Idx) (r : Role) : (T.join l i r).watch j = T.watch j := rfl

@[simp] theorem Table.watch_leaveLines (T : Table) (i j : Idx) : (T.leaveLines i).watch j = T.watch j := rfl

@[simp] theorem Table.watch_follow (T : Table) (t i j : Idx) : (T.follow t i).watch j = T.watch j := rfl

@[simp] theorem Table.watch_unfollow (T : Table) (t i j : Idx) : (T.unfollow t i).watch j = T.watch j := rfl

@[simp] theorem Table.watch_clearFollowers (T : Table) (t j : Idx) : (T.clearFollowers t).watch j = T.watch j := rfl

@[simp] theorem Table.watch_addDeadline (T : Table) (now : Time) (i j : Idx) (due : Time) (k : DeadlineKind) :
    (T.addDeadline now i due k).watch j = T.watch j := rfl

@[simp] theorem Table.watch_dropReachedLate (T : Table) (now : Time) (i j : Idx) :
    (T.dropReachedLate now i).watch j = T.watch j := rfl

@[simp] theorem Table.watch_dropDeadline (T : Table) (i j : Idx) : (T.dropDeadline i).watch j = T.watch j := rfl

@[simp] theorem Table.watch_sendOut (T : Table) (r : OutReq) (j : Idx) : (T.sendOut r).watch j = T.watch j := rfl

@[simp] theorem Table.watch_sendNotice (T : Table) (r : NoticeReq) (j : Idx) : (T.sendNotice r).watch j = T.watch j := rfl

@[simp] theorem Table.listenersOf_modify (T : Table) (i : Idx) (f : Watch → Watch) (l : Line) :
    (T.modify i f).listenersOf l = T.listenersOf l := rfl

@[simp] theorem Table.listenersOf_addDeadline (T : Table) (now : Time) (i : Idx) (due : Time) (k : DeadlineKind)
    (l : Line) : (T.addDeadline now i due k).listenersOf l = T.listenersOf l := rfl

@[simp] theorem Table.listenersOf_dropReachedLate (T : Table) (now : Time) (i : Idx) (l : Line) :
    (T.dropReachedLate now i).listenersOf l = T.listenersOf l := rfl

@[simp] theorem Table.listenersOf_dropDeadline (T : Table) (i : Idx) (l : Line) :
    (T.dropDeadline i).listenersOf l = T.listenersOf l := rfl

@[simp] theorem Table.listenersOf_follow (T : Table) (t i : Idx) (l : Line) :
    (T.follow t i).listenersOf l = T.listenersOf l := rfl

@[simp] theorem Table.listenersOf_unfollow (T : Table) (t i : Idx) (l : Line) :
    (T.unfollow t i).listenersOf l = T.listenersOf l := rfl

/-- Joining a line's list adds one entry at that list's tail and nothing elsewhere (R55). -/
theorem Table.listenersOf_join (T : Table) (l m : Line) (i : Idx) (r : Role) :
    (T.join l i r).listenersOf m =
      T.listenersOf m ++ if l = m then [{ watch := i, role := r }] else [] := by
  by_cases h : l = m
  · subst h; simp [Table.listenersOf]
  · have h' : l.val ≠ m.val := fun e => h (Fin.ext e)
    simp [Table.listenersOf, Vector.getElem_set_ne, h, h']

/-- Leaving the lines removes a watch's entries and keeps the order of the others (R56). -/
@[simp] theorem Table.listenersOf_leaveLines (T : Table) (i : Idx) (l : Line) :
    (T.leaveLines i).listenersOf l = (T.listenersOf l).filter fun x => x.watch ≠ i := by
  simp [Table.listenersOf]

@[simp] theorem Table.followersOf_modify (T : Table) (i : Idx) (f : Watch → Watch) (t : Idx) :
    (T.modify i f).followersOf t = T.followersOf t := rfl

@[simp] theorem Table.followersOf_join (T : Table) (l : Line) (i t : Idx) (r : Role) :
    (T.join l i r).followersOf t = T.followersOf t := rfl

@[simp] theorem Table.followersOf_leaveLines (T : Table) (i t : Idx) :
    (T.leaveLines i).followersOf t = T.followersOf t := rfl

@[simp] theorem Table.followersOf_addDeadline (T : Table) (now : Time) (i t : Idx) (due : Time) (k : DeadlineKind) :
    (T.addDeadline now i due k).followersOf t = T.followersOf t := rfl

@[simp] theorem Table.followersOf_dropReachedLate (T : Table) (now : Time) (i t : Idx) :
    (T.dropReachedLate now i).followersOf t = T.followersOf t := rfl

@[simp] theorem Table.followersOf_dropDeadline (T : Table) (i t : Idx) :
    (T.dropDeadline i).followersOf t = T.followersOf t := rfl

/-- Joining a target's follower list adds the watch at that list's tail and nothing elsewhere (R57). -/
theorem Table.followersOf_follow (T : Table) (t i x : Idx) :
    (T.follow t i).followersOf x = T.followersOf x ++ if t = x then [i] else [] := by
  by_cases h : t = x
  · subst h; simp [Table.followersOf]
  · have h' : t.val ≠ x.val := fun e => h (Fin.ext e)
    simp [Table.followersOf, Vector.getElem_set_ne, h, h']

/-- Leaving a target's follower list keeps the order of the others (R57). -/
theorem Table.followersOf_unfollow (T : Table) (t i x : Idx) :
    (T.unfollow t i).followersOf x =
      if t = x then (T.followersOf x).filter fun j => j ≠ i else T.followersOf x := by
  by_cases h : t = x
  · subst h; simp [Table.followersOf]
  · have h' : t.val ≠ x.val := fun e => h (Fin.ext e)
    simp [Table.followersOf, Vector.getElem_set_ne, h, h']

/-- A step end is exactly what R58 states. -/
theorem endStep_ends (T : Table) (i : Idx) : StepEnded T (endStep T i) i := by
  unfold endStep
  constructor
  · cases (T.watch i).followTarget <;> rfl
  · intro l; cases (T.watch i).followTarget <;> simp
  · intro x
    cases h : (T.watch i).followTarget with
    | none => simp
    | some t => simp [Table.followersOf_unfollow]
  · cases (T.watch i).followTarget <;> rfl
  · cases (T.watch i).followTarget <;> exact ⟨rfl, rfl⟩

/-! ### The deadline list (R127, R128) -/

/-- An inserted deadline is in the list, and nothing else is new. -/
theorem mem_insertDeadline (now : Time) (d x : Deadline) (list : List Deadline) :
    x ∈ insertDeadline now d list ↔ x = d ∨ x ∈ list := by
  induction list with
  | nil => simp [insertDeadline]
  | cons y ys ih =>
    unfold insertDeadline
    split
    · simp [ih, or_left_comm]
    · simp

/-- An insertion adds one entry and loses none. -/
theorem insertDeadline_perm (now : Time) (d : Deadline) (list : List Deadline) :
    (insertDeadline now d list).Perm (d :: list) := by
  induction list with
  | nil => exact List.Perm.refl _
  | cons y ys ih =>
    unfold insertDeadline
    split
    · exact (ih.cons y).trans (List.Perm.swap d y ys)
    · exact List.Perm.refl _

/-! ### Searching the table in index order -/

/-- The first watch index that passes a test. -/
theorem allWatches_find?_eq_some (f : Idx → Bool) (i : Idx) :
    allWatches.find? f = some i ↔ f i = true ∧ ∀ j < i, f j = false := by
  simp only [allWatches, List.find?_eq_some_iff_getElem]
  simp only [List.length_finRange, List.getElem_finRange, Fin.cast_mk, Bool.not_eq_true']
  constructor
  · rintro ⟨h, k, hk, rfl, hj⟩
    exact ⟨h, fun j hj' => by simpa using hj j.val hj'⟩
  · rintro ⟨h, hj⟩
    exact ⟨h, i.val, i.isLt, rfl, fun j hj' => by simpa using hj ⟨j, by omega⟩ hj'⟩

theorem allWatches_find?_eq_none (f : Idx → Bool) : allWatches.find? f = none ↔ ∀ i, f i = false := by
  simp [allWatches]

/-- The lowest FREE index, if any is FREE (R10). -/
theorem Table.lowestFree_eq_some (T : Table) (i : Idx) :
    T.lowestFree = some i ↔ (T.watch i).state = .free ∧ ∀ j < i, (T.watch j).state ≠ .free := by
  simp [Table.lowestFree, allWatches_find?_eq_some]

theorem Table.lowestFree_eq_none (T : Table) : T.lowestFree = none ↔ ∀ i, (T.watch i).state ≠ .free := by
  simp [Table.lowestFree, allWatches]

/-- The next member of a sweep (R109). -/
theorem nextMember_eq_some (T : Table) (p : Port) (g : Option Group) (next : Nat) (i : Idx) :
    nextMember T p g next = some i ↔
      next ≤ i.val ∧ isMember T p g i = true ∧ ∀ j < i, next ≤ j.val → isMember T p g j = false := by
  simp [nextMember, allWatches_find?_eq_some, and_assoc]

theorem nextMember_eq_none (T : Table) (p : Port) (g : Option Group) (next : Nat) :
    nextMember T p g next = none ↔ ∀ i : Idx, next ≤ i.val → isMember T p g i = false := by
  simp [nextMember, allWatches]

/-! ### Taking and completing a command -/

/-- The placing of a response is the completion of R188 and R190. -/
theorem PortState.complete_eq_answered (x : PortState) (r : Response) : x.complete r = x.answered r := by
  simp [PortState.complete, PortState.answered]

theorem State.complete_eq_answers (s : State) (p : Port) (r : Response) : s.complete p r = s.answers p r := by
  simp [State.complete, State.answers, State.setPort, PortState.complete_eq_answered]

theorem State.reply_eq_answersIf (s : State) (dest : Option Port) (r : Response) :
    s.reply dest r = s.answersIf dest r := by
  cases dest <;> simp [State.reply, State.answersIf, State.complete_eq_answers]

/-- The arbiter holds a port's request back exactly while the other port's waits too and the port was last served. -/
theorem State.granted_eq_false (s : State) (p : Port) : s.granted p = false ↔
    (s.port (otherPort p)).request.isSome = true ∧ s.engine.lastServed = p := by
  have h : s.engine.lastServed = otherPort p ↔ s.engine.lastServed ≠ p := by
    cases p <;> cases s.engine.lastServed <;> simp [otherPort]
  simp [State.granted, h, Option.isSome_iff_ne_none]

/-- The test of a waiting command is the one R191 states. -/
theorem State.offers_iff (s : State) (p : Port) (c : Instr) : s.offers p c .first = true ↔ Offered s p c := by
  simp [State.offers, State.granted, Offered, and_assoc]

/-- A command the arbiter passes is taken as one happening and completed with its response, if it has one. -/
theorem atEngine_taken {s : State} {p : Port} {c : Instr} (h : Offered s p c)
    (body : State → State × Option Response) :
    atEngine p c s body = .next (finish p (body (s.pass p))) := by
  simp [atEngine, (State.offers_iff s p c).2 h]

/-- What the taking of a command at the engine can do: its happening, or nothing. -/
theorem atEngine_cases (s : State) (p : Port) (c : Instr) (body : State → State × Option Response) :
    (Offered s p c ∧ atEngine p c s body = .next (finish p (body (s.pass p)))) ∨
      (¬Offered s p c ∧ atEngine p c s body = .next s) := by
  by_cases h : Offered s p c
  · exact .inl ⟨h, atEngine_taken h body⟩
  · refine .inr ⟨h, ?_⟩
    have : ¬s.offers p c .first = true := fun e => h ((State.offers_iff s p c).1 e)
    simp [atEngine, this]

/-- The passing of the request leaves no trace in the completed port. -/
theorem PortState.answered_passed (x : PortState) (r : Response) :
    ({ x with request := none } : PortState).answered r = x.answered r := by
  unfold PortState.answered; split <;> simp_all

/-- A state that the engine has passed a request in, with a new engine and the completed command, is the state the
claims speak of. -/
theorem State.pass_setEngine_complete (s : State) (p : Port) (e : Engine) (r : Response) (h : e.lastServed = p) :
    ((s.pass p).setEngine e).complete p r = s.engineAnswers p e r := by
  have he : ({ e with lastServed := p } : Engine) = e := by cases e; simp_all
  simp only [State.complete_eq_answers, State.answers, State.engineAnswers, he, State.setEngine, State.pass,
    State.setPort, State.port, PerPort.get_set_same, PerPort.set_set, PortState.answered_passed]

/-- A completed happening of the engine that changes the engine alone. -/
theorem atEngine_onEngine {s : State} {p : Port} {c : Instr} (h : Offered s p c) {f : Engine → Engine × Response}
    {e : Engine} {r : Response} (hf : f { s.engine with lastServed := p } = (e, r)) (he : e.lastServed = p) :
    atEngine p c s (onEngine f) = .next (s.engineAnswers p e r) := by
  rw [atEngine_taken h, ← State.pass_setEngine_complete s p e r he]
  simp [onEngine, finish, hf]

/-- The same, for an engine that agrees with the one answered but for the port last served. -/
theorem atEngine_answers {s : State} {p : Port} {c : Instr} (h : Offered s p c) {f : Engine → Engine × Response}
    (e : Engine) {r : Response} (hf : f { s.engine with lastServed := p } = ({ e with lastServed := p }, r)) :
    atEngine p c s (onEngine f) = .next (s.engineAnswers p e r) := by
  rw [atEngine_onEngine h hf rfl]; rfl

/-- A command taken by the engine that refuses it without a change. -/
theorem atEngine_refused {s : State} {p : Port} {c : Instr} (h : Offered s p c)
    {body : State → State × Option Response} {r : Response} (hb : body (s.pass p) = (s.pass p, some r)) :
    atEngine p c s body = .next (s.engineAnswers p s.engine r) := by
  rw [atEngine_taken h, hb]
  exact congrArg _ (State.pass_setEngine_complete s p { s.engine with lastServed := p } r rfl)

/-- What the taking of a command at another block can do: its happening, or nothing. -/
theorem atBlock_cases (s : State) (p : Port) (c : Instr) (body : State → State × Response) :
    ((s.port p).inExec = some c ∧ atBlock p c s body = .next ((body s).1.answers p (body s).2)) ∨
      ((s.port p).inExec ≠ some c ∧ atBlock p c s body = .next s) := by
  by_cases h : (s.port p).inExec = some c
  · exact .inl ⟨h, by simp [atBlock, h, State.complete_eq_answers]⟩
  · exact .inr ⟨h, by simp [atBlock, h]⟩

/-! ### The checks of R8 -/

/-- What a command that names a watch can do: a refusal by the first failing check of R8 with no change, or its own
effect on the watch named. -/
theorem onWatch_cases (e : Engine) (p : Port) (b : Byte) (mutating : Bool) (takenFrom : WState → Bool)
    (k : Idx → Engine × Response) :
    (∃ st, st ≠ .ok ∧ st ≠ .aborted ∧ onWatch e p b mutating takenFrom k = (e, .refuse st)) ∨
      ∃ i : Idx, b.toNat = i.val ∧ (e.watch i).state ≠ .free ∧
        (mutating = true → (e.watch i).owner = some p) ∧ takenFrom (e.watch i).state = true ∧
        onWatch e p b mutating takenFrom k = k i := by
  unfold onWatch checkWatch
  by_cases hb : b.toNat < 64
  · by_cases hf : (e.watch ⟨b.toNat, hb⟩).state = .free
    · exact .inl ⟨.noSuchWatch, by decide, by decide, by simp [hb, hf]⟩
    · by_cases ho : mutating = true ∧ ¬(e.watch ⟨b.toNat, hb⟩).owner = some p
      · exact .inl ⟨.notOwner, by decide, by decide, by simp [hb, hf, ho]⟩
      · by_cases ht : takenFrom (e.watch ⟨b.toNat, hb⟩).state = true
        · exact .inr ⟨⟨b.toNat, hb⟩, rfl, hf, fun hm => not_not.1 fun hne => ho ⟨hm, hne⟩, ht, by simp [hb, hf, ho, ht]⟩
        · exact .inl ⟨.stateConflict, by decide, by decide, by simp [hb, hf, ho, ht]⟩
  · exact .inl ⟨.badArgument, by decide, by decide, by simp [hb]⟩

/-- A command on a watch of the port in one of its states has its own effect. -/
theorem onWatch_named {e : Engine} {p : Port} {b : Byte} {i : Idx} {takenFrom : WState → Bool} (hb : b.toNat = i.val)
    (hf : (e.watch i).state ≠ .free) (ho : (e.watch i).owner = some p) (ht : takenFrom (e.watch i).state = true)
    (mutating : Bool) (k : Idx → Engine × Response) : onWatch e p b mutating takenFrom k = k i := by
  have hlt : b.toNat < 64 := hb ▸ i.isLt
  have hi : (⟨b.toNat, hlt⟩ : Idx) = i := Fin.ext hb
  simp [onWatch, checkWatch, hlt, hi, hf, ho, ht]

end Sys2Proof.Machine
end

