-- ==== Sys2Proof/Laws/Cascade.lean ====
section
/-! SUPPORT. What a whole cascade can do to the table, said once: it is made of the atomic changes below, so a relation
between tables that each of them keeps is kept by every conclusion, step begin, step completion, action, delivery,
served edge and expiry. -/

namespace Sys2Proof.Machine

open Sys2Proof

/-- What no run of a watch changes in its record: its identity, definition and options. -/
structure SameDefinition (w w' : Watch) : Prop where
  identity : w'.tag = w.tag ∧ w'.owner = w.owner
  options : w'.rep = w.rep ∧ w'.group = w.group ∧ w'.route = w.route
  steps : w'.steps = w.steps
  actions : w'.metActions = w.metActions ∧ w'.failActions = w.failActions

theorem SameDefinition.refl (w : Watch) : SameDefinition w w := ⟨⟨rfl, rfl⟩, ⟨rfl, rfl, rfl⟩, rfl, rfl, rfl⟩

theorem SameDefinition.trans {a b c : Watch} (h : SameDefinition a b) (k : SameDefinition b c) : SameDefinition a c :=
  ⟨⟨k.identity.1.trans h.identity.1, k.identity.2.trans h.identity.2⟩,
    ⟨k.options.1.trans h.options.1, k.options.2.1.trans h.options.2.1, k.options.2.2.trans h.options.2.2⟩,
    k.steps.trans h.steps, k.actions.1.trans h.actions.1, k.actions.2.trans h.actions.2⟩

/-- A relation between tables that holds of a table and itself, goes on from one change to the next, and is kept by
each atomic change a cascade is made of. -/
structure CascadeClosed (R : Table → Table → Prop) : Prop where
  refl : ∀ T, R T T
  trans : ∀ {A B C}, R A B → R B C → R A C
  record : ∀ T i f, SameDefinition (T.watch i) (f (T.watch i)) → R T (T.modify i f)
  join : ∀ T l i r, R T (T.join l i r)
  leaveLines : ∀ T i, R T (T.leaveLines i)
  follow : ∀ T t i, R T (T.follow t i)
  unfollow : ∀ T t i, R T (T.unfollow t i)
  addDeadline : ∀ T now i due k, R T (T.addDeadline now i due k)
  dropDeadline : ∀ T i, R T (T.dropDeadline i)
  dropReachedLate : ∀ T now i, R T (T.dropReachedLate now i)
  sendOut : ∀ T k o w, R T (T.sendOut (.action k o w))
  sendPost : ∀ T route n, R T (T.sendNotice (.post route n))

/-- A conclusion procedure that keeps a relation. -/
def Concluder.Keeps (rec : Concluder) (R : Table → Table → Prop) : Prop := ∀ T i o cause t, R T (rec T i o cause t)

namespace CascadeClosed

variable {R : Table → Table → Prop} {rec : Concluder}

/-- A fold keeps what each of its steps keeps. -/
theorem foldl (h : CascadeClosed R) {α : Type} {f : Table → α → Table} (hf : ∀ T x, R T (f T x)) (xs : List α)
    (T : Table) : R T (xs.foldl f T) := by
  induction xs generalizing T with
  | nil => exact h.refl T
  | cons x xs ih => exact h.trans (hf T x) (ih _)

theorem endStep (h : CascadeClosed R) (T : Table) (i : Idx) : R T (endStep T i) := by
  unfold Machine.endStep
  cases (T.watch i).followTarget with
  | none => exact h.trans (h.leaveLines T i) (h.dropDeadline _ i)
  | some t => exact h.trans (h.leaveLines T i) (h.trans (h.unfollow _ t i) (h.dropDeadline _ i))

theorem addWindow (h : CascadeClosed R) (c : Ctx) (T : Table) (i : Idx) (d : StepDesc) (t : Time) :
    R T (addWindow c T i d t) := by
  unfold Machine.addWindow
  split
  · exact h.refl T
  · exact h.addDeadline ..
  · exact h.refl T

theorem checkGuard (h : CascadeClosed R) (hr : rec.Keeps R) (c : Ctx) (T : Table) (i : Idx) (d : StepDesc) (t : Time) :
    R T (checkGuard rec c T i d t) := by
  unfold Machine.checkGuard
  split
  · exact h.addWindow ..
  · split
    · exact h.trans (h.join ..) (h.addWindow ..)
    · exact hr ..

theorem setUpStep (h : CascadeClosed R) (hr : rec.Keeps R) (c : Ctx) (T : Table) (i : Idx) (d : StepDesc) (t : Time) :
    R T (setUpStep rec c T i d t) := by
  unfold Machine.setUpStep
  cases d.kind with
  | edge p q k n =>
    refine h.trans (h.trans (h.record T i (fun w => { w with remaining := n })
      ⟨⟨rfl, rfl⟩, ⟨rfl, rfl, rfl⟩, rfl, rfl, rfl⟩) (h.join _ p i .trigger)) ?_
    cases q with
    | none => exact h.checkGuard hr ..
    | some q => exact h.trans (h.join ..) (h.checkGuard hr ..)
  | span p v mn mx =>
    exact h.trans (h.trans (h.record T i _ ⟨⟨rfl, rfl⟩, ⟨rfl, rfl, rfl⟩, rfl, rfl, rfl⟩) (h.join _ p i .trigger))
      (h.checkGuard hr ..)
  | delay len => exact h.trans (h.addDeadline ..) (h.checkGuard hr ..)
  | follow tgt w =>
    dsimp only
    split
    · exact h.trans (h.follow ..) (h.checkGuard hr ..)
    · exact hr ..

/-- A step begin, with the conclusion it may cause. -/
theorem beginStep (h : CascadeClosed R) (hr : rec.Keeps R) (c : Ctx) (T : Table) (i : Idx) (k : Nat) (t : Time) :
    R T (beginStep rec c T i k t) := by
  unfold Machine.beginStep
  have hb : R T (T.modify i fun w => w.begun k t) := h.record T i _ ⟨⟨rfl, rfl⟩, ⟨rfl, rfl, rfl⟩, rfl, rfl, rfl⟩
  cases (T.watch i).steps[k]? with
  | none => exact hb
  | some d => exact h.trans hb (h.setUpStep hr ..)

theorem armWatch (h : CascadeClosed R) (hr : rec.Keeps R) (c : Ctx) (T : Table) (i : Idx) (t : Time) :
    R T (armWatch rec c T i t) :=
  h.trans (h.record T i _ ⟨⟨rfl, rfl⟩, ⟨rfl, rfl, rfl⟩, rfl, rfl, rfl⟩) (h.beginStep hr ..)

theorem holdWatch (h : CascadeClosed R) (T : Table) (i : Idx) : R T (holdWatch T i) :=
  h.trans (h.record T i _ ⟨⟨rfl, rfl⟩, ⟨rfl, rfl, rfl⟩, rfl, rfl, rfl⟩) (h.dropDeadline ..)

theorem releaseWatch (h : CascadeClosed R) (hr : rec.Keeps R) (c : Ctx) (T : Table) (i : Idx) :
    R T (releaseWatch rec c T i) := by
  have hb : ∀ T', R T' (T'.modify i Watch.releasedNow) := fun T' =>
    h.record T' i _ ⟨⟨rfl, rfl⟩, ⟨rfl, rfl, rfl⟩, rfl, rfl, rfl⟩
  unfold Machine.releaseWatch
  cases (T.watch i).followTarget with
  | none => exact h.trans (h.leaveLines T i) (h.trans (hb _) (h.beginStep hr ..))
  | some t => exact h.trans (h.leaveLines T i) (h.trans (h.unfollow ..) (h.trans (hb _) (h.beginStep hr ..)))

/-- A step completion, with the conclusion it may cause. -/
theorem completeStep (h : CascadeClosed R) (hr : rec.Keeps R) (c : Ctx) (T : Table) (i : Idx) (t : Time) :
    R T (completeStep rec c T i t) := by
  unfold Machine.completeStep
  refine h.trans (h.endStep T i) ?_
  dsimp only
  split
  · exact h.trans (h.record _ i _ ⟨⟨rfl, rfl⟩, ⟨rfl, rfl, rfl⟩, rfl, rfl, rfl⟩) (h.beginStep hr ..)
  · exact hr ..

theorem skipAction (h : CascadeClosed R) (T : Table) (w : Idx) : R T (skipAction T w) :=
  h.record T w _ ⟨⟨rfl, rfl⟩, ⟨rfl, rfl, rfl⟩, rfl, rfl, rfl⟩

/-- A fold over pairs whose first item is the table. -/
theorem foldlPair (h : CascadeClosed R) {f : Table × Bool → Idx → Table × Bool} (hf : ∀ x j, R x.1 (f x j).1)
    (xs : List Idx) (x : Table × Bool) : R x.1 (xs.foldl f x).1 := by
  induction xs generalizing x with
  | nil => exact h.refl _
  | cons j xs ih => exact h.trans (hf x j) (ih _)

theorem groupDone (h : CascadeClosed R) (w : Idx) (x : Table × Bool) : R x.1 (groupDone w x) := by
  unfold Machine.groupDone
  split
  · exact h.refl _
  · exact h.skipAction ..

/-- An action, with the conclusions it may cause. -/
theorem runAction (h : CascadeClosed R) (hr : rec.Keeps R) (c : Ctx) (w : Idx) (t : Time) (T : Table) (a : Action) :
    R T (runAction rec c w t T a) := by
  cases a with
  | notify => simp only [Machine.runAction]; split <;> [exact h.skipAction ..; exact h.sendPost ..]
  | outSet o => exact h.sendOut ..
  | outClear o => exact h.sendOut ..
  | outRelease o => exact h.sendOut ..
  | arm x => simp only [Machine.runAction]; split <;> [exact h.armWatch hr ..; exact h.skipAction ..]
  | cancel x => simp only [Machine.runAction]; split <;> [exact hr ..; exact h.skipAction ..]
  | holdGroup g =>
    refine h.trans (h.foldlPair (fun x j => ?_) allWatches (T, false)) (h.groupDone w _)
    unfold holdMember; split <;> [exact h.holdWatch ..; exact h.refl _]
  | releaseGroup g =>
    refine h.trans (h.foldlPair (fun x j => ?_) allWatches (T, false)) (h.groupDone w _)
    unfold releaseMember; split <;> [exact h.releaseWatch hr ..; exact h.refl _]

theorem judged (_h : CascadeClosed R) (hr : rec.Keeps R) (T : Table) (i : Idx) (d : StepDesc) (start τ : Time) (k : Table)
    (hk : R T k) : R T (judged rec T i d start τ k) := by
  unfold Machine.judged
  split <;> first | exact hr .. | exact hk

/-- A delivery to a follower, with what it may cause. -/
theorem deliver (h : CascadeClosed R) (hr : rec.Keeps R) (c : Ctx) (w : Idx) (o : WOutcome) (t : Time) (T : Table)
    (entry : Idx × BitVec 16) : R T (deliver rec c w o t T entry) := by
  unfold Machine.deliver
  dsimp only
  split
  · exact h.refl T
  · split
    · split
      · split
        · refine h.judged hr T _ _ _ _ _ ?_
          split <;> [exact h.completeStep hr ..; exact hr ..]
        · exact h.refl T
      · exact h.refl T
    · exact h.refl T

/-- A conclusion over a conclusion procedure for the nested ones. -/
theorem concludeWith (h : CascadeClosed R) (hr : rec.Keeps R) (c : Ctx) : (concludeWith rec c).Keeps R := by
  intro T i o cause t
  unfold Machine.concludeWith
  have h1 : R T (T.modify i fun w => w.concludedWith o cause t) :=
    h.record T i _ ⟨⟨rfl, rfl⟩, ⟨rfl, rfl, rfl⟩, rfl, rfl, rfl⟩
  have h4 := h.trans h1 (h.trans (h.endStep _ i) (h.trans
    (h.foldl (h.runAction hr c i t)
      (((Machine.endStep (T.modify i fun w => w.concludedWith o cause t) i).watch i).actionsFor o) _)
    (h.foldl (h.deliver hr c i o t)
      (((T.modify i fun w => w.concludedWith o cause t).followersOf i).map fun f =>
        (f, ((T.modify i fun w => w.concludedWith o cause t).watch f).epoch)) _)))
  dsimp only
  split
  · exact h.trans h4 (h.trans (h.record _ i _ ⟨⟨rfl, rfl⟩, ⟨rfl, rfl, rfl⟩, rfl, rfl, rfl⟩) (h.beginStep hr ..))
  · exact h4

/-- Every conclusion procedure of the model, at every depth of nesting. -/
theorem conclude (h : CascadeClosed R) (c : Ctx) (n : Nat) : (conclude c n).Keeps R := by
  induction n with
  | zero =>
    intro T i o cause t
    exact h.trans (h.record T i _ ⟨⟨rfl, rfl⟩, ⟨rfl, rfl, rfl⟩, rfl, rfl, rfl⟩) (h.endStep ..)
  | succ n ih => exact h.concludeWith ih c

/-- The conclusion procedure of a happening. -/
theorem concluder (h : CascadeClosed R) (c : Ctx) : (concluder c).Keeps R := h.conclude c _

theorem countEdge (h : CascadeClosed R) (hr : rec.Keeps R) (c : Ctx) (T : Table) (i : Idx) (stamp : Time) :
    R T (countEdge rec c T i stamp) := by
  have hb : R T (T.modify i fun w => { w.progressed with remaining := w.remaining - 1 }) := by
    refine h.record T i _ ?_
    unfold Watch.progressed
    split <;> exact ⟨⟨rfl, rfl⟩, ⟨rfl, rfl, rfl⟩, rfl, rfl, rfl⟩
  unfold Machine.countEdge
  dsimp only
  split <;> [exact h.trans hb (h.completeStep hr ..); exact h.trans hb (h.dropReachedLate ..)]

theorem enterSpan (h : CascadeClosed R) (c : Ctx) (T : Table) (i : Idx) (mx : Option Duration) (stamp : Time) :
    R T (enterSpan c T i mx stamp) := by
  have hb : R T (T.modify i fun w => { w.progressed with spanStart := some stamp, phase := .inSpan }) := by
    refine h.record T i _ ?_
    unfold Watch.progressed
    split <;> exact ⟨⟨rfl, rfl⟩, ⟨rfl, rfl, rfl⟩, rfl, rfl, rfl⟩
  unfold Machine.enterSpan
  cases mx with
  | none => exact h.trans hb (h.dropDeadline ..)
  | some m => exact h.trans hb (h.trans (h.dropDeadline ..) (h.addDeadline ..))

theorem leaveSpan (h : CascadeClosed R) (hr : rec.Keeps R) (c : Ctx) (T : Table) (i : Idx) (mn mx : Option Duration)
    (stamp : Time) : R T (leaveSpan rec c T i mn mx stamp) := by
  unfold Machine.leaveSpan
  refine h.trans (h.record T i (fun w =>
    { w with lastSpan := some (clampSpan (stamp - (T.watch i).spanStart.getD 0)) })
    ⟨⟨rfl, rfl⟩, ⟨rfl, rfl, rfl⟩, rfl, rfl, rfl⟩) ?_
  dsimp only
  split
  · exact hr ..
  · split
    · split <;> [exact hr ..; exact h.completeStep hr ..]
    · exact h.completeStep hr ..

/-- A snapshot entry served, with what it may cause. -/
theorem serveEntry (h : CascadeClosed R) (hr : rec.Keeps R) (c : Ctx) (e : Edge) (T : Table) (x : SnapEntry) :
    R T (serveEntry rec c e T x) := by
  unfold Machine.serveEntry
  dsimp only
  split
  · exact h.refl T
  · split
    · exact hr ..
    · split
      · exact hr ..
      · split
        · unfold serveTrigger
          dsimp only
          split
          · split
            · split <;> [exact h.judged hr _ _ _ _ _ _ (h.countEdge hr ..); exact h.refl T]
            · split
              · split <;> [exact h.judged hr _ _ _ _ _ _ (h.enterSpan ..); exact h.refl T]
              · split <;> [exact h.refl T; exact h.leaveSpan hr ..]
              · exact h.refl T
            · exact h.refl T
            · exact h.refl T
          · exact h.refl T
        · exact h.refl T

/-- An edge served to a line's listeners. -/
theorem serveLine (h : CascadeClosed R) (c : Ctx) (T : Table) (l : Line) (e : Edge) : R T (serveLine c T l e) :=
  h.foldl (h.serveEntry (h.concluder c) c e) _ T

/-- An expiry. -/
theorem expire (h : CascadeClosed R) (c : Ctx) (T : Table) (d : Deadline) : R T (expire c T d) := by
  unfold Machine.expire
  split <;> first | exact h.concluder c .. | exact h.completeStep (h.concluder c) ..

end CascadeClosed

/-- A cascade leaves the identity, definition and options of every watch. -/
theorem cascade_sameDefinition : CascadeClosed fun T T' => ∀ j, SameDefinition (T.watch j) (T'.watch j) where
  refl _ _ := SameDefinition.refl _
  trans h k j := (h j).trans (k j)
  record T i f hf j := by
    rw [Table.watch_modify]
    split
    · next h => rw [h]; exact hf
    · exact SameDefinition.refl _
  join _ _ _ _ _ := SameDefinition.refl _
  leaveLines _ _ _ := SameDefinition.refl _
  follow _ _ _ _ := SameDefinition.refl _
  unfollow _ _ _ _ := SameDefinition.refl _
  addDeadline _ _ _ _ _ _ := SameDefinition.refl _
  dropDeadline _ _ _ := SameDefinition.refl _
  dropReachedLate _ _ _ _ := SameDefinition.refl _
  sendOut _ _ _ _ _ := SameDefinition.refl _
  sendPost _ _ _ _ := SameDefinition.refl _

/-- A cascade only adds to the output request path, and only output actions. -/
theorem cascade_outPath : CascadeClosed fun T T' =>
    ∃ more, T'.outPath = T.outPath ++ more ∧ ∀ r ∈ more, ∃ k o w, r = .action k o w where
  refl T := ⟨[], by simp, by simp⟩
  trans := by
    rintro A B C ⟨m, hm, hm'⟩ ⟨n, hn, hn'⟩
    refine ⟨m ++ n, by rw [hn, hm, List.append_assoc], fun r hr => ?_⟩
    rcases List.mem_append.1 hr with hr | hr
    · exact hm' r hr
    · exact hn' r hr
  record _ _ _ _ := ⟨[], (List.append_nil _).symm, by simp⟩
  join _ _ _ _ := ⟨[], (List.append_nil _).symm, by simp⟩
  leaveLines _ _ := ⟨[], (List.append_nil _).symm, by simp⟩
  follow _ _ _ := ⟨[], (List.append_nil _).symm, by simp⟩
  unfollow _ _ _ := ⟨[], (List.append_nil _).symm, by simp⟩
  addDeadline _ _ _ _ _ := ⟨[], (List.append_nil _).symm, by simp⟩
  dropDeadline _ _ := ⟨[], (List.append_nil _).symm, by simp⟩
  dropReachedLate _ _ _ := ⟨[], (List.append_nil _).symm, by simp⟩
  sendOut _ k o w := ⟨[.action k o w], rfl, by simp⟩
  sendPost _ _ _ := ⟨[], (List.append_nil _).symm, by simp⟩

/-- A cascade only adds to the notice request path, and only posts. -/
theorem cascade_noticePath : CascadeClosed fun T T' =>
    ∃ more, T'.noticePath = T.noticePath ++ more ∧ ∀ r ∈ more, ∃ route n, r = .post route n where
  refl T := ⟨[], by simp, by simp⟩
  trans := by
    rintro A B C ⟨m, hm, hm'⟩ ⟨n, hn, hn'⟩
    refine ⟨m ++ n, by rw [hn, hm, List.append_assoc], fun r hr => ?_⟩
    rcases List.mem_append.1 hr with hr | hr
    · exact hm' r hr
    · exact hn' r hr
  record _ _ _ _ := ⟨[], (List.append_nil _).symm, by simp⟩
  join _ _ _ _ := ⟨[], (List.append_nil _).symm, by simp⟩
  leaveLines _ _ := ⟨[], (List.append_nil _).symm, by simp⟩
  follow _ _ _ := ⟨[], (List.append_nil _).symm, by simp⟩
  unfollow _ _ _ := ⟨[], (List.append_nil _).symm, by simp⟩
  addDeadline _ _ _ _ _ := ⟨[], (List.append_nil _).symm, by simp⟩
  dropDeadline _ _ := ⟨[], (List.append_nil _).symm, by simp⟩
  dropReachedLate _ _ _ := ⟨[], (List.append_nil _).symm, by simp⟩
  sendOut _ _ _ _ := ⟨[], (List.append_nil _).symm, by simp⟩
  sendPost _ route n := ⟨[.post route n], rfl, by simp⟩

end Sys2Proof.Machine
end

