-- ==== Sys2Proof/Laws/Clock.lean ====
section
/-! SUPPORT. What the passing of REFCLK does, said once: a period of each unit, a sample of a line, and that any number of
periods changes the Timebase and the Line Unit alone. -/

namespace Sys2Proof.Machine

open Sys2Proof

/-- All a REFCLK period can do to the Timebase. -/
theorem Timebase.period_cases (t : Timebase) :
    (t.hold = .held ∧ t.period = t) ∨
    (t.hold = .running ∧ t.partialCount + 1 < t.divider.toNat ∧
      t.period = { t with partialCount := t.partialCount + 1 }) ∨
    (t.hold = .running ∧ t.divider.toNat ≤ t.partialCount + 1 ∧
      t.period = { t with partialCount := 0, now := t.now + 1 }) := by
  unfold Timebase.period
  cases h : t.hold with
  | held => exact .inl ⟨rfl, rfl⟩
  | running =>
    by_cases k : t.partialCount + 1 < t.divider.toNat
    · exact .inr (.inl ⟨rfl, k, by simp [k]⟩)
    · exact .inr (.inr ⟨rfl, by omega, by simp [k]⟩)

@[simp] theorem Timebase.period_divider (t : Timebase) : t.period.divider = t.divider := by
  rcases t.period_cases with ⟨-, h⟩ | ⟨-, -, h⟩ | ⟨-, -, h⟩ <;> rw [h]

@[simp] theorem Timebase.period_hold (t : Timebase) : t.period.hold = t.hold := by
  rcases t.period_cases with ⟨-, h⟩ | ⟨-, -, h⟩ | ⟨-, -, h⟩ <;> rw [h]

@[simp] theorem LineUnit.period_divider (u : LineUnit) (pins : BitVec 24) (now : Time) :
    (u.period pins now).sampleDivider = u.sampleDivider := by
  unfold LineUnit.period
  split <;> rfl

@[simp] theorem State.refclk_time (s : State) : s.refclk.time = s.time.period := rfl
@[simp] theorem State.refclk_lineUnit (s : State) :
    s.refclk.lineUnit = s.lineUnit.period s.pins s.time.period.now := rfl
@[simp] theorem State.refclk_pins (s : State) : s.refclk.pins = s.pins := rfl

/-- Any number of REFCLK periods changes the Timebase and the Line Unit alone. -/
theorem State.refclks_only (n : Nat) (s : State) :
    s.refclks n = { s with time := (s.refclks n).time, lineUnit := (s.refclks n).lineUnit } := by
  induction n generalizing s with
  | zero => rfl
  | succ n ih =>
    rw [State.refclks, ih]
    rfl

/-- Periods one after the other. -/
theorem State.refclks_succ (n : Nat) (s : State) : s.refclks (n + 1) = (s.refclks n).refclk := by
  induction n generalizing s with
  | zero => rfl
  | succ n ih => exact ih s.refclk

/-- One sample of a line, in the terms of the claims. -/
theorem sampleLine_sampled (x : LineState) (pin : Bool) (now : Time) : LineSampled pin now x (sampleLine x pin now) := by
  have hr : logical x.config.polarity pin = if (pin = true ↔ x.config.polarity = .normal) then .high else .low := by
    cases x.config.polarity <;> cases pin <;> simp [logical]
  have he : ∀ v : Level, v.edge = if v = .high then .rise else .fall := by intro v; cases v <;> rfl
  unfold sampleLine
  simp only [hr]
  refine ⟨?_, ?_, ?_, ?_⟩
  · intro h
    rw [if_neg]
    simpa using h
  · rintro ⟨h1, h2⟩ h
    simp [h1, h2, h]
  · rintro ⟨h1, h2⟩ h hp
    simp only [h1, h2, h]
    simp
    omega
  · rintro ⟨h1, h2⟩ h hp
    refine ⟨fun hq => ?_, fun a b hq => ?_⟩
    · simp [h1, h2, h, hp, acceptLevel, enqueue, Config.queueDepth, hq, he]
    · simp [h1, h2, h, hp, acceptLevel, enqueue, Config.queueDepth, hq, he, satInc]
      split <;> simp_all

end Sys2Proof.Machine
end

