-- ==== Sys2Proof/Laws/Ports.lean ====
section
/-! SUPPORT. What the transactions of the ports do, said once: what the shifting out of a status byte leaves alone, what
a first byte is and which port hears it, and that each part of a transaction changes its port alone. -/

namespace Sys2Proof.Machine

open Sys2Proof

/-! ### Shifting out the status byte, and the end of a transaction -/

@[simp] theorem PortState.shiftOut_phase (x : PortState) (c : Byte) : (x.shiftOut c).phase = x.phase := rfl
@[simp] theorem PortState.shiftOut_inExec (x : PortState) (c : Byte) : (x.shiftOut c).inExec = x.inExec := rfl
@[simp] theorem PortState.shiftOut_request (x : PortState) (c : Byte) : (x.shiftOut c).request = x.request := rfl
@[simp] theorem PortState.shiftOut_held (x : PortState) (c : Byte) : (x.shiftOut c).held = x.held := rfl
@[simp] theorem PortState.shiftOut_abort (x : PortState) (c : Byte) : (x.shiftOut c).abort = x.abort := rfl
@[simp] theorem PortState.shiftOut_fetch (x : PortState) (c : Byte) : (x.shiftOut c).fetch = x.fetch := rfl

@[simp] theorem PortState.idleBus_phase (x : PortState) : x.idleBus.phase = x.phase := rfl
@[simp] theorem PortState.idleBus_inExec (x : PortState) : x.idleBus.inExec = x.inExec := rfl
@[simp] theorem PortState.idleBus_request (x : PortState) : x.idleBus.request = x.request := rfl
@[simp] theorem PortState.idleBus_held (x : PortState) : x.idleBus.held = x.held := rfl
@[simp] theorem PortState.idleBus_abort (x : PortState) : x.idleBus.abort = x.abort := rfl
@[simp] theorem PortState.idleBus_lostMark (x : PortState) : x.idleBus.lostMark = x.lostMark := rfl
@[simp] theorem PortState.idleBus_frameMark (x : PortState) : x.idleBus.frameMark = x.frameMark := rfl
@[simp] theorem PortState.idleBus_refusedMark (x : PortState) : x.idleBus.refusedMark = x.refusedMark := rfl
@[simp] theorem PortState.idleBus_resetMark (x : PortState) : x.idleBus.resetMark = x.resetMark := rfl
@[simp] theorem PortState.idleBus_out (x : PortState) : x.idleBus.out = x.out := rfl

/-! ### The first byte, and who hears it -/

theorem busAddress_eq_iff (a : Byte) (b : BitVec 7) : busAddress a = b ↔ a.toNat / 2 = b.toNat := by
  constructor
  · rintro rfl
    simp [busAddress, BitVec.extractLsb'_toNat, Nat.shiftRight_eq_div_pow]
    omega
  · intro h
    apply BitVec.eq_of_toNat_eq
    simp [busAddress, BitVec.extractLsb'_toNat, Nat.shiftRight_eq_div_pow]
    omega

theorem busReads_iff (a : Byte) : busReads a = true ↔ a.toNat % 2 = 1 := by
  simp [busReads, BitVec.getLsbD, Nat.testBit_zero]

theorem hears_iff (s : State) (p : Port) (o : Opening) : Hears s p o ↔ o.heardBy s.portBAddress = some p := by
  cases o with
  | select c =>
    simp only [Hears, Opening.heardBy, Option.some.injEq]
    exact eq_comm
  | start a c =>
    simp only [Hears, Opening.heardBy, busAddress_eq_iff]
    split
    · simp_all
      exact eq_comm
    · simp_all

/-- The transfer codes as comparisons. -/
theorem transferOf_eq : ∀ c : Byte, transferOf c =
    if c = 0xA0 then some .command else if c = 0xA1 then some .fetch else if c = 0xA2 then some .abort
    else if c = 0xA3 then some .status else none := by decide +kernel

/-- A first byte says what the code sent says, and a read where none is sent. -/
theorem Opening.first_eq (o : Opening) : o.first = (sentCode o).elim .read firstByteOf := by
  cases o with
  | select c => rfl
  | start a c =>
    simp only [Opening.first, sentCode]
    by_cases h : a.toNat % 2 = 1
    · simp [h, (busReads_iff a).2 h]
    · have : busReads a = false := by
        cases hb : busReads a with
        | false => rfl
        | true => exact absurd ((busReads_iff a).1 hb) h
      simp [h, this]

/-- A transaction that fits its row runs at the port that hears it. -/
theorem onBus_hears {s : State} {p : Port} {o : Opening} (h : Hears s p o) {fits : FirstByte → Bool} (k : Port → State)
    (hf : fits o.first = true) : onBus o fits s k = .next (k p) := by
  simp [onBus, (hears_iff s p o).1 h, hf]

/-- All a transaction's row can do: run at the port that hears it, or nothing. -/
theorem onBus_cases (o : Opening) (fits : FirstByte → Bool) (s : State) (k : Port → State) :
    onBus o fits s k = .next s ∨ ∃ p, Hears s p o ∧ fits o.first = true ∧ onBus o fits s k = .next (k p) := by
  unfold onBus
  split
  · next p hp =>
    split
    · next hf => exact .inr ⟨p, (hears_iff s p o).2 hp, hf, rfl⟩
    · exact .inl rfl
  · exact .inl rfl

/-! ### Each part of a transaction changes its port alone -/

/-- A state with at most one port changed. -/
def OnlyPort (p : Port) (s t : State) : Prop := ∃ y, t = s.setPort p y

theorem OnlyPort.refl (p : Port) (s : State) : OnlyPort p s s := ⟨s.port p, by simp [State.setPort, State.port]⟩

theorem OnlyPort.set (p : Port) (s : State) (y : PortState) : OnlyPort p s (s.setPort p y) := ⟨y, rfl⟩

theorem OnlyPort.trans {p : Port} {s t u : State} (h : OnlyPort p s t) (k : OnlyPort p t u) : OnlyPort p s u := by
  obtain ⟨y, rfl⟩ := h
  obtain ⟨z, rfl⟩ := k
  exact ⟨z, by simp [State.setPort]⟩

theorem State.openBus_only (s : State) (p : Port) (o : Opening) : OnlyPort p s (s.openBus p o) := by
  simp only [State.openBus]
  by_cases h : (s.port p).bus = .free
  · rw [if_pos h]
    exact .set _ _ _
  · rw [if_neg h]
    exact .refl _ _

theorem State.codeByte_only {p : Port} {act : State → State} (h : ∀ s, OnlyPort p s (act s)) (s : State) :
    OnlyPort p s (s.codeByte p act) := by
  simp only [State.codeByte]
  split
  · exact (OnlyPort.set _ _ _).trans (h _)
  · exact .refl _ _

theorem State.shiftStatus_only (s : State) (p : Port) : OnlyPort p s (s.shiftStatus p) := by
  simp only [State.shiftStatus]
  split
  · split
    · exact .set _ _ _
    · exact .refl _ _
  · exact .refl _ _

theorem State.clockBytes_only (s : State) (p : Port) (n : Nat) : OnlyPort p s (s.clockBytes p n) := by
  simp only [State.clockBytes]
  by_cases h : ((s.port p).pastFirst && decide ((s.port p).phase ≠ .receiving)) = true
  · rw [if_pos h]
    exact .set _ _ _
  · rw [if_neg h]
    exact .refl _ _

theorem State.stopBus_only (s : State) (p : Port) : OnlyPort p s (s.stopBus p) := by
  simp only [State.stopBus]
  split
  · exact .refl _ _
  · split
    · exact .set _ _ _
    · split <;> exact .set _ _ _

theorem State.headByte_only {p : Port} {act : State → State} (h : ∀ s, OnlyPort p s (act s)) (s : State) (o : Opening)
    (part : HeadPart) : OnlyPort p s (s.headByte p o act part) := by
  cases part with
  | whole =>
    simp only [State.headByte]
    split
    · exact ((s.openBus_only p o).trans (State.codeByte_only h _)).trans (State.shiftStatus_only _ _)
    · exact .refl _ _
  | opened => exact s.openBus_only p o
  | code => exact State.codeByte_only h s
  | shifted => exact s.shiftStatus_only p

/-- A transaction whose code acts on its port alone changes its port alone. -/
theorem State.transact_only {p : Port} {act : State → State} (h : ∀ s, OnlyPort p s (act s)) (s : State) (o : Opening)
    (part : TransactionPart) : OnlyPort p s (s.transact p o act part) := by
  cases part with
  | whole n =>
    simp only [State.transact]
    split
    · exact ((State.headByte_only h s o .whole).trans (State.clockBytes_only _ _ _)).trans (State.stopBus_only _ _)
    · exact .refl _ _
  | head part => exact State.headByte_only h s o part
  | clock n => exact s.clockBytes_only p n
  | stop => exact s.stopBus_only p

theorem State.beginFrame_only (p : Port) (s : State) : OnlyPort p s (s.beginFrame p) := by
  simp only [State.beginFrame]
  split
  · exact .set _ _ _
  · exact .set _ _ _
  · exact .set _ _ _
  · exact .refl _ _

theorem State.beginFetch_only (p : Port) (s : State) : OnlyPort p s (s.beginFetch p) := by
  cases p
  · exact .set _ _ _
  · exact .refl _ _

end Sys2Proof.Machine
end

