-- ==== Sys2Proof/Tests/Slice0.lean ====
section
/-! SUPPORT. Tests: what WellFormed refuses, frames and descriptors written out from the spec, single happenings of the
worked sequences of spec/12, and for every statement with hypotheses a state and operands that meet them. -/

namespace Sys2Proof.Tests

open Sys2Proof Sys2Proof.Machine

-- One test after the other: checked side by side, they take a stack each and pass the check's memory limit.
set_option Elab.async false

/-! ### Small states -/

/-- Right after a hardware reset, with a command placed in execution at its port. -/
def sent (p : Port) (c : Instr) : State := State.reset.place p c

/-- A state with one record replaced. -/
def withWatch (s : State) (i : Idx) (w : Watch) : State :=
  s.setEngine (s.engine.withTable (s.engine.table.setWatch i w))

/-- A table with one record replaced. -/
def tableWith (i : Idx) (w : Watch) : Table := Table.reset.setWatch i w

/-- A context with every line disabled and LOW. -/
def ctx0 : Ctx := State.reset.ctx

/-- EDGE on EL3, RISE, n 1 (step 0 of the carton gate of spec/12). -/
def edgeStep : StepDesc :=
  { kind := .edge 3 none .rise 1, guard := none, notBefore := none, notAfter := none }

/-- SPAN on EL7, HIGH, min 50, max 500, not_after 400, guard EL1 HIGH (step 1 of the carton gate of spec/12). -/
def spanStep : StepDesc :=
  { kind := .span 7 .high (some 50) (some 500), guard := some (1, .high), notBefore := none, notAfter := some 400 }

/-- FOLLOW on watch 10. -/
def followStep : StepDesc := { kind := .follow 10 .met, guard := none, notBefore := none, notAfter := none }

/-- Port A's watch of the carton gate in DRAFT. -/
def draft : Watch :=
  { Watch.free with
    state := .draft, tag := some 200, owner := some .A, rep := .cyclic, route := .a
    steps := [edgeStep, spanStep], metActions := [.notify], failActions := [.outSet 0, .notify] }

/-- The same in IDLE. -/
def idle : Watch := { draft with state := .idle }

/-- A watch of one EDGE step in ARMED, started at 10,000. -/
def armed : Watch :=
  { idle with
    state := .armed, rep := .once, metActions := [], failActions := [], steps := [edgeStep], remaining := 1
    stepStart := some 10000, armedAt := some 10000, epoch := 1 }

/-- A follower of watch 10, started at 100. -/
def follower : Watch := { armed with steps := [followStep], remaining := 0, stepStart := some 100, epoch := 7 }

/-- A state with a line enabled on both sides at a level. -/
def lineOn (s : State) (l : Line) (v : Level) : State :=
  (s.setView l { enabled := true, delivered := v, mark := false }).setLine l
    { s.line l with config := { enable := true, polarity := .normal, filter := 0 }, accepted := v }

/-- A state with a request at the head of the output request path. -/
def outHead (r : OutReq) : State := State.reset.setOutPath [r]

/-! ### What WellFormed refuses -/

theorem test_wf_addStep_short : (Instr.addStep .A 4 [1, 0]).wf = false := by decide

theorem test_wf_setActions_short : (Instr.setActions .A 4 1 1 [(1, 0)]).wf = false := by decide

/-- A FETCH that names port A and opens on port B's bus, and one whose first byte is STATUS. -/
theorem test_wf_fetch : (Instr.fetch .A (.start 0x71 0) (.whole 3)).wf = false ∧
    (Instr.fetch .A (.select 0xA3) (.whole 3)).wf = false := by decide

/-- A COMMAND with the code of ABORT, and an ABORT with the code of COMMAND. -/
theorem test_wf_command_abort : (Instr.command { opening := .select 0xA2, part := .whole }).wf = false ∧
    (Instr.abort { opening := .start 0x70 0xA0, part := .stop }).wf = false := by decide

/-- A STATUS by a port B read that continues past the status byte: that is a FETCH (R180). -/
theorem test_wf_status_continued : (Instr.status (.start 0x71 0) (.whole 1)).wf = false := by decide

theorem test_wf_unknown_code_is_known : (Instr.unknownTransferCode (.select 0xA1) .stop).wf = false ∧
    (Instr.unknownTransferCode (.start 0x71 0x9F) .stop).wf = false := by decide

/-! ### The first byte of a transaction, as R178 and R180 write it -/

/-- The four transfer codes, and their neighbours. -/
theorem test_transfer_codes : transferOf 0xA0 = some .command ∧ transferOf 0xA1 = some .fetch ∧
    transferOf 0xA2 = some .abort ∧ transferOf 0xA3 = some .status ∧ transferOf 0x9F = none ∧ transferOf 0xA4 = none := by
  decide

/-- Port B at 39h hears the address bytes 72h (write) and 73h (read), not its neighbours and not the general call. -/
theorem test_port_b_address : (Opening.start 0x72 0xA0).heardBy 0x39 = some .B ∧
    (Opening.start 0x72 0xA0).first = .transfer .command ∧ (Opening.start 0x73 0xA0).heardBy 0x39 = some .B ∧
    (Opening.start 0x73 0xA0).first = .read ∧ (Opening.start 0x70 0xA0).heardBy 0x39 = none ∧
    (Opening.start 0x74 0xA0).heardBy 0x39 = none ∧ (Opening.start 0x00 0x06).heardBy 0x39 = none ∧
    (Opening.select 0xA0).heardBy 0x39 = some .A := by decide

/-! ### Frames and descriptors written out from spec/10 and spec/11 -/

/-- The IDENTIFY frame of spec/10, whose CRC the spec works out as A2h. -/
theorem test_frame_identify : readFrame .A [0x70, 0x00, 0xA2] = .sound (.identify .A) := by decide +kernel

/-- A frame with a wrong CRC, one cut short, and one whose length byte exceeds 28 (R183). -/
theorem test_frame_faulty : readFrame .A [0x70, 0x00, 0xA3] = .faulty ∧ readFrame .A [0x70] = .faulty ∧
    readFrame .B (0x11 :: 29 :: List.replicate 30 0) = .faulty := by decide +kernel

/-- The CREATE of tag 300 on port B: two bytes, the most significant first (R204). -/
theorem test_frame_create : (Instr.create .B 300).codeAndPayload = some (0x10, [0x01, 0x2C]) ∧
    readCommand .B 0x10 [0x01, 0x2C] = .sound (.create .B 300) := by decide

/-- An unknown code is examined before the length (R187). -/
theorem test_command_unknown : readCommand .A 0xFF [1] = .unknown ∧ readCommand .A 0x20 [] = .badLength := by decide

/-- The SPAN step of spec/11, byte for byte. -/
theorem test_descriptor_span : readStep [0x02, 0x35, 0x01, 0x01, 0, 0, 0, 0x00, 0x01, 0x90, 0x07, 0x01, 0, 0,
    0x00, 0x00, 0x32, 0x00, 0x01, 0xF4] = some spanStep := by decide +kernel

/-- The frames of one command of each family, as R204 lays them out. -/
theorem test_commands_read :
    readCommand .A 0x21 [9] = .sound (.cancel .A 9) ∧ readCommand .B 0x29 [2] = .sound (.holdGroup .B 2) ∧
    readCommand .A 0x30 [0x03, 0xE8] = .sound (.setTimebase .A 1000) ∧
    readCommand .A 0x40 [9, 1, 0, 4] = .sound (.setLine .A 9 1 0 4) ∧
    readCommand .B 0x50 [2, 1, 0, 100, 0] = .sound (.setOutput .B 2 1 100 0) ∧
    readCommand .A 0x62 [4] = .sound (.ackNotice .A 4) ∧ readCommand .A 0x7F [] = .sound (.deviceReset .A) := by
  decide +kernel

/-! ### Single happenings, most of them of the worked sequences of spec/12 -/

/-- The state after one command, where exec answers one. -/
def run (c : Instr) (s : State) : State :=
  match exec c s with
  | .next t => t
  | _ => s

/-- The response a port holds. -/
def heldBy (s : State) (p : Port) : Option Response := (s.port p).held

/-- The carton gate before its run: watch 4 IDLE, its three lines enabled, EL1 HIGH, `now` 10,000. -/
def carton : State :=
  { withWatch (lineOn (lineOn (lineOn (sent .A (.arm .A 4)) 1 .high) 3 .low) 7 .low) 4 idle with
    time := { Timebase.reset with now := 10000 } }

/-- Host ARM at 10,000: ARMED, remaining 1, epoch 1, a listener on EL3. -/
theorem test_arm : ((run (.arm .A 4) carton).engine.watch 4).state = .armed ∧
    ((run (.arm .A 4) carton).engine.watch 4).remaining = 1 ∧ ((run (.arm .A 4) carton).engine.watch 4).epoch = 1 ∧
    (run (.arm .A 4) carton).engine.table.listenersOf 3 = [{ watch := 4, role := .trigger }] ∧
    heldBy (run (.arm .A 4) carton) .A = some (.ok [3]) := by decide +kernel

/-- The carton gate on EL3's edge of 10,120, taken at 10,123. -/
def cartonEdge : State :=
  let s := run (.arm .A 4) carton
  { s.setLine 3 { s.line 3 with queue := [{ dir := .rise, stamp := 10120, lost := false }] } with
    time := { s.time with now := 10123 } }

/-- EL3 RISE: step 0 completes at 10,120, step 1 begins there with LATE due 10,521. -/
theorem test_edgeTaken : ((run (.edgeTaken 3) cartonEdge).engine.watch 4).state = .running ∧
    ((run (.edgeTaken 3) cartonEdge).engine.watch 4).stepStart = some 10120 ∧
    (run (.edgeTaken 3) cartonEdge).engine.table.deadlines = [{ watch := 4, due := 10521, kind := .late }] ∧
    (run (.edgeTaken 3) cartonEdge).engine.table.listenersOf 3 = [] := by decide +kernel

/-- LATE expiry at 11,403, due 11,401: MISSED with failing step 1; OUT_SET AO0 and a post leave, in list order. -/
theorem test_deadlineExpiry :
    let w : Watch := { idle with state := .running, current := 1, stepStart := some 11000, phase := .waitEntry }
    let s := withWatch { State.reset with time := { Timebase.reset with now := 11403 } } 4 w
    let t := run .deadlineExpiry (s.setEngine (s.engine.withTable { s.engine.table with
      deadlines := [{ watch := 4, due := 11401, kind := .late }] }))
    (t.engine.watch 4).outcome = .missed ∧ (t.engine.watch 4).failing = some 1 ∧
      (t.engine.watch 4).concludedAt = some 11401 ∧ t.engine.table.outPath = [.action .set 0 4] ∧
      t.engine.table.noticePath.length = 1 := by decide +kernel

/-- The first of two edges, stamped 10,398 within not_after 400: a LATE entry due 10,401 that is reached at 10,404 leaves,
and one not reached at 10,399 stays (R74, R53; log 27). -/
theorem test_edge_goes_on :
    let w : Watch := { armed with
      steps := [{ edgeStep with kind := .edge 3 none .rise 2, notAfter := some 400 }], remaining := 2 }
    let T := { (tableWith 4 w) with deadlines := [{ watch := 4, due := 10401, kind := .late }] }
    let serve (now : Time) : Table := serveEntry (concluder { ctx0 with now := now }) { ctx0 with now := now }
      { dir := .rise, stamp := 10398, lost := false } T { watch := 4, role := .trigger, epoch := 1 }
    (serve 10404).deadlines = [] ∧ ((serve 10404).watch 4).remaining = 1 ∧ ((serve 10404).watch 4).state = .running ∧
      (serve 10399).deadlines = [{ watch := 4, due := 10401, kind := .late }] ∧
      ((serve 10399).watch 4).remaining = 1 := by decide +kernel

/-- The cyclic completion at 10,420: the post carries cycles 0, the record cycles 1, and step 0 listens again. -/
theorem test_cyclic_rearm :
    let w : Watch := { idle with
      state := .running, current := 1, stepStart := some 10120, spanStart := some 10300, phase := .inSpan, epoch := 2 }
    let s := lineOn (lineOn (lineOn State.reset 1 .high) 3 .high) 7 .high
    let T := ((tableWith 4 w).join 7 4 .trigger).join 1 4 .guard
    let t := run (.edgeTaken 7) ((s.setEngine (s.engine.withTable T)).setLine 7 { s.line 7 with
      queue := [{ dir := .fall, stamp := 10420, lost := false }] })
    (t.engine.watch 4).state = .armed ∧ (t.engine.watch 4).cycles = 1 ∧ (t.engine.watch 4).lastSpan = some 120 ∧
      (t.engine.watch 4).epoch = 3 ∧ t.engine.table.listenersOf 1 = [] ∧
      t.engine.table.noticePath = [.post .a {
        index := 4, tag := 200, outcome := .met, cause := .none, failing := none, concludedAt := 10420, cycles := 0 }] := by
  decide +kernel

/-- The chain of spec/12 with the CANCEL taken first: 11 breaks CHAIN at 20,604, 12 is MET there. -/
theorem test_cancel_chain :
    let f (tgt : Idx) (wanted : Wanted) : Watch := { follower with
      steps := [{ followStep with kind := .follow tgt wanted }], stepStart := some 20000 }
    let s := withWatch (withWatch (withWatch (sent .A (.cancel .A 10)) 10 armed) 11 (f 10 .met)) 12 (f 11 .any)
    let s1 := s.setEngine (s.engine.withTable ((s.engine.table.follow 10 11).follow 11 12))
    let t := run (.cancel .A 10) { s1 with time := { Timebase.reset with now := 20604 } }
    (t.engine.watch 10).cause = .host ∧ (t.engine.watch 11).cause = .chain ∧ (t.engine.watch 12).outcome = .met ∧
      (t.engine.watch 12).concludedAt = some 20604 ∧ heldBy t .A = some (.ok []) := by decide +kernel

/-- The third bounce on EL9 is dropped: the newest entry keeps its stamp, takes the kind and is marked. -/
theorem test_sample_drop :
    let x : LineState := { (lineOn State.reset 9 .low).line 9 with
      queue := [{ dir := .rise, stamp := 30400, lost := false }, { dir := .fall, stamp := 30401, lost := false }]
      edgeCount := 102 }
    let s := { (lineOn State.reset 9 .low).setLine 9 x with time := { Timebase.reset with now := 30402 } }
    let t := run (.sample 0x200) { s with lineUnit := { s.lineUnit with sampleCounter := 99 } }
    (t.line 9).queue = [{ dir := .rise, stamp := 30400, lost := false },
      { dir := .rise, stamp := 30401, lost := true }] ∧ (t.line 9).edgeCount = 103 ∧ (t.line 9).lostCount = 1 := by
  decide +kernel

/-- A state with the divider 3 and the sample divider 2, both counts at 0. -/
def fast : State :=
  { State.reset with
    time := { Timebase.reset with divider := 3 }, lineUnit := { LineUnit.reset with sampleDivider := 2 } }

/-- One tick is three REFCLK periods at divider 3 and one at divider 1, and a sample falls in every second (R118,
R135). -/
theorem test_tick_by_divider : (run .tick fast).time.now = 1 ∧ (run .tick fast).time.partialCount = 0 ∧
    (run .tick fast).lineUnit.sampleCounter = 1 ∧
    (run .tick { fast with time := { fast.time with divider := 1 } }).time.now = 1 ∧
    (run .tick { fast with time := { fast.time with divider := 1 } }).lineUnit.sampleCounter = 1 := by decide +kernel

/-- Two samples are four REFCLK periods, one tick among them; in HELD no period of the Timebase counts (R118, R135). -/
theorem test_sample_by_divider : (run (.sample 0) (run (.sample 0) fast)).time.now = 1 ∧
    (run (.sample 0) (run (.sample 0) fast)).time.partialCount = 1 ∧
    (run (.sample 0) (run (.sample 0) fast)).lineUnit.sampleCounter = 0 ∧
    (run (.sample 0) { fast with time := { fast.time with hold := .held } }).time.partialCount = 0 := by decide +kernel

/-- HOLD_GROUP 2, first request: watch 5 is held, the search finds watch 8, the counts stand at 1 and 0. -/
theorem test_holdGroup :
    let w : Watch := { armed with group := some 2 }
    let s := withWatch (withWatch (sent .A (.holdGroup .A 2)) 5 { w with state := .running }) 8 w
    let t := run (.holdGroup .A 2) s
    (t.engine.watch 5).heldFrom = some .running ∧ (t.engine.watch 8).state = .armed ∧
      (t.port .A).request = some .visit ∧
      (t.sweep .A).run = some { kind := .hold, group := some 2, next := 6, affected := 1, skipped := 0 } := by
  decide +kernel

/-- The port A STATUS transaction with `n` further bytes. -/
def status (n : Nat) : Instr := .status (.select 0xA3) (.whole n)

/-- The port A FETCH of `n` bytes after the status byte. -/
def fetchOf (n : Nat) : Instr := .fetch .A (.select 0xA1) (.whole n)

/-- The first STATUS after a hardware reset returns the fixed mark and RESET, and clears RESET (spec/10). A further byte
returns FFh (R179), and the next STATUS the fixed mark alone. -/
theorem test_status_after_reset : ((run (status 1) State.reset).port .A).out = [0x81, 0xFF] ∧
    ((run (status 1) State.reset).port .A).resetMark = false ∧
    ((run (status 0) (run (status 1) State.reset)).port .A).out = [0x80] := by decide +kernel

/-- A status byte captured before a DEVICE_RESET of the other port leaves RESET set (R182). -/
theorem test_mark_after_capture :
    let code (h : HeadPart) : Instr := .status (.select 0xA3) (.head h)
    let s := run (code .opened) ((sent .B (.deviceReset .B)).setPort .A { PortState.reset with resetMark := false })
    let t := run (code .shifted) (run (code .code) (run (.deviceReset .B) s))
    (t.port .A).out = [0x80] ∧ (t.port .A).resetMark = true := by decide +kernel

/-- A mark the captured byte carries is cleared with it although an unknown code sets it again: setting a mark that is set
changes nothing (R182). -/
theorem test_mark_set_again :
    let s := run (.unknownTransferCode (.select 0x9F) (.whole 0)) (run (.unknownTransferCode (.select 0x9F) (.whole 0)) State.reset)
    (s.port .A).out = [0x88] ∧ (s.port .A).frameMark = false := by decide +kernel

/-- The byte captured while a command is in execution shows it, although the COMMAND code, complete after the command
has answered, finds a held response, discards it and sets LOST (R181, R186). -/
theorem test_capture_before_code :
    let c (h : HeadPart) : Instr := .command { opening := .select 0xA0, part := h }
    let s := run (c .opened) ((sent .A (.readPool .A)).setPort .A
      { (sent .A (.readPool .A)).port .A with resetMark := false })
    let t := run (c .shifted) (run (c .code) (run (.readPool .A) s))
    (t.port .A).out = [0xC0] ∧ (t.port .A).phase = .receiving ∧ (t.port .A).lostMark = true := by decide +kernel

/-- A FETCH of a held IDENTIFY response shifts out 13 bytes and frees it (spec/11). -/
theorem test_fetch_whole :
    let s := State.reset.answer .A (.ok identifyBytes)
    ((run (fetchOf 13) s).port .A).phase = .ready ∧ ((run (fetchOf 12) s).port .A).phase = .holding ∧
      ((run (fetchOf 13) s).port .A).out.take 4 = [0xA1, 0x00, 0x0A, 0x64] := by decide +kernel

/-- A COMMAND transaction on port B, its frame received after it, and a read that collects the response; a start with
another address in between is not heard (R180, R187). -/
theorem test_port_b_identify :
    let s := run (.command { opening := .start 0x70 0xA0, part := .whole }) State.reset
    let t := run (.frameReceived .B [0x70, 0x00, 0xA2]) (run (.status (.start 0x73 0) (.whole 0)) s)
    let u := run (.fetch .B (.start 0x71 0) (.whole 13)) t
    (s.port .B).phase = .receiving ∧ (t.port .B).phase = .holding ∧ (u.port .B).phase = .ready ∧
      (u.port .B).out.take 4 = [0xA1, 0x00, 0x0A, 0x64] := by decide +kernel

/-- A time difference across the wrap of `now` (spec/06): due 30 is not reached at 2^48 - 100, and has offset 130. -/
theorem test_offset_wrap : offset 0xFFFFFFFFFF9C 30 = 130 ∧ offset 0xFFFFFFFFFF9C 0xFFFFFFFFFFCE = 50 ∧
    reached 0xFFFFFFFFFF9C 30 = false := by decide +kernel

/-- With no command waiting, one REFCLK period passes (log 3). -/
theorem test_core_idle :
    (match Sys2Proof.core.step Sys2Proof.core.reset with
      | .next t => (t : State).time.partialCount
      | _ => 0) = 1 := by decide +kernel

/-! ### Witnesses: the hypotheses of each statement, met together, clause by clause

A command naming watch 63, the last, is used wherever an index is named, and 64 where it must be out of range. -/

/-- A host command of port A in execution, with a record of watch 63. -/
def on63 (c : Instr) (w : Watch) : State := withWatch (sent .A c) 63 w

/-- A state with every record replaced. -/
def everywhere (s : State) (w : Watch) : State :=
  s.setEngine (s.engine.withTable { s.engine.table with watches := Vector.replicate 64 w })

/-- A table with a record of watch 63 and one of watch 0. -/
def pair (w w0 : Watch) : Table := (tableWith 63 w).setWatch 0 w0

theorem witness_StepOfQueue : ({ State.reset with pending := [.tick] } : State).pending = .tick :: [] ∧
    State.reset.pending = [] ∧ State.reset.time.partialCount + 1 < State.reset.time.divider.toNat ∧
    (let s : State := { State.reset with time := { Timebase.reset with partialCount := 999 }
                                         lineUnit := { LineUnit.reset with sampleCounter := 99 } };
      s.pending = [] ∧ ¬s.time.partialCount + 1 < s.time.divider.toNat ∧
        s.lineUnit.sampleDivider.toNat ≤ s.lineUnit.sampleCounter + 1) := by decide +kernel

/-- The same request at both ports, port A last served. -/
def bothWait (c : Port → Instr) : State :=
  let s := (sent .A (c .A)).place .B (c .B)
  s.setEngine { s.engine with lastServed := .A }

/-- Not in execution; held back by the other port; forwarded, so that its request no longer waits; and a later request of
a sweep, absent and held back. -/
theorem witness_EveryCommandAnswers :
    ((Instr.readPool .A).issuer = some .A ∧ Instr.readPool .A ≠ .identify .A ∧ (Instr.readPool .A).isDirect = false ∧
      (State.reset.port .A).inExec ≠ some (.readPool .A)) ∧
    (let s := bothWait .readPool;
      (s.port .A).inExec = some (.readPool .A) ∧ (s.port .A).request = some .first ∧
        (s.port .B).request.isSome = true ∧ s.engine.lastServed = .A) ∧
    (let c := Instr.setTimebase .A 1;
      let s := run c (sent .A c);
      c.issuer = some .A ∧ c ≠ .identify .A ∧ c.isDirect = false ∧ (s.port .A).inExec = some c ∧
        (s.port .A).request ≠ some .first) ∧
    ((sent .A (.holdGroup .A 7)).port .A).request ≠ some .visit ∧ (State.reset.port .A).request = none ∧
    (let s0 := bothWait (.holdGroup · 7);
      let s := s0.setPort .A { s0.port .A with request := some .visit };
      (s.port .A).request = some .visit ∧ (s.port .B).request.isSome = true ∧ s.engine.lastServed = .A) := by
  decide +kernel

theorem witness_FrameRoundTrip : (Instr.addStep .B 63 (List.replicate 20 0)).wf = true ∧
    (Instr.addStep .B 63 (List.replicate 20 0)).issuer = some .B := by decide +kernel

/-- The bytes of `spanStep` with every bit set that is not examined: the reserved flags and the alternate's, the absent
not_before and the reserved bytes. -/
def noisySpan : List Byte :=
  [0x02, 0xFD, 0x01, 0x01, 9, 9, 9, 0x00, 0x01, 0x90, 0x07, 0x01, 9, 9, 0x00, 0x00, 0x32, 0x00, 0x01, 0xF4]

theorem witness_DefinitionRoundTrip : spanStep.InRange ∧ readStep spanStep.bytes = some spanStep ∧
    readStep noisySpan = some spanStep ∧ examinedBytes noisySpan = examinedBytes spanStep.bytes ∧
    readAction 5 63 = some (.arm 63) := by
  refine ⟨?_, by decide +kernel, by decide +kernel, by decide +kernel, by decide +kernel⟩
  simp [spanStep, StepDesc.InRange, StepKind.InRange]

theorem witness_ChecksInOrder :
    (namesWatch (.arm .A 64) = some (.A, 64, true, [.idle]) ∧
      Offered (sent .A (.arm .A 64)) .A (.arm .A 64) ∧ 63 < (64 : Byte).toNat) ∧
    (namesWatch (.arm .A 63) = some (.A, 63, true, [.idle]) ∧ (63 : Byte).toNat = (63 : Idx).val) ∧
    (Offered (sent .A (.arm .A 63)) .A (.arm .A 63) ∧ ((sent .A (.arm .A 63)).engine.watch 63).state = .free) ∧
    (let s := on63 (.arm .A 63) { idle with owner := some .B };
      Offered s .A (.arm .A 63) ∧ (s.engine.watch 63).state ≠ .free ∧ (s.engine.watch 63).owner ≠ some .A) ∧
    (let s := on63 (.arm .A 63) draft;
      Offered s .A (.arm .A 63) ∧ (s.engine.watch 63).state ≠ .free ∧ (s.engine.watch 63).owner = some .A ∧
        (s.engine.watch 63).state ∉ [WState.idle]) := by
  refine ⟨?_, ?_, ?_, ?_, ?_⟩ <;> decide +kernel

theorem witness_CreateMakesDraft :
    Offered (sent .A (.create .A 0)) .A (.create .A 0) ∧
    (let s0 := sent .A (.create .A 200);
      let s := s0.setEngine { s0.engine with tags := [(200, 4)] };
      Offered s .A (.create .A 200) ∧ ((200, 4) : BitVec 16 × Idx) ∈ s.engine.tags) ∧
    (let s := everywhere (sent .A (.create .A 1)) draft;
      Offered s .A (.create .A 1) ∧ s.engine.tags = [] ∧ ∀ i, (s.engine.watch i).state ≠ .free) ∧
    (let s := withWatch (everywhere (sent .A (.create .A 0xFFFF)) draft) 63 Watch.free;
      Offered s .A (.create .A 0xFFFF) ∧ s.engine.tags = [] ∧ (s.engine.watch 63).state = .free ∧
        ∀ j < 63, (s.engine.watch j).state ≠ .free) := by decide +kernel

theorem witness_AddStepAppends :
    let bad : List Byte := List.replicate 20 0
    let good := spanStep.bytes
    (let s := on63 (.addStep .A 63 bad) { draft with steps := List.replicate 6 edgeStep };
      Offered s .A (.addStep .A 63 bad) ∧ Names s .A 63 63 [.draft] ∧ 6 ≤ (s.engine.watch 63).steps.length) ∧
    (let s := on63 (.addStep .A 63 bad) { draft with steps := List.replicate 5 edgeStep };
      Offered s .A (.addStep .A 63 bad) ∧ Names s .A 63 63 [.draft] ∧ (s.engine.watch 63).steps.length < 6 ∧
        readStep bad = none) ∧
    (let s := on63 (.addStep .A 63 good) { draft with steps := List.replicate 5 edgeStep };
      Offered s .A (.addStep .A 63 good) ∧ Names s .A 63 63 [.draft] ∧ (s.engine.watch 63).steps.length < 6 ∧
        readStep good = some spanStep ∧ s.engine.freeSlots ≠ 0) ∧
    (let s0 := on63 (.addStep .A 63 good) draft;
      let s := s0.setEngine { s0.engine with freeSlots := 0 };
      Offered s .A (.addStep .A 63 good) ∧ Names s .A 63 63 [.draft] ∧ (s.engine.watch 63).steps.length < 6 ∧
        readStep good = some spanStep ∧ s.engine.freeSlots = 0) := by decide +kernel

theorem witness_DropStepRemovesLast :
    (let s := on63 (.dropStep .A 63) { draft with steps := [] };
      Offered s .A (.dropStep .A 63) ∧ Names s .A 63 63 [.draft] ∧ (s.engine.watch 63).steps = []) ∧
    (let s := on63 (.dropStep .A 63) draft;
      Offered s .A (.dropStep .A 63) ∧ Names s .A 63 63 [.draft] ∧
        (s.engine.watch 63).steps = [edgeStep] ++ [spanStep]) := by decide +kernel

/-- Four action positions, the third of an unknown kind. -/
def acts : List (Byte × Byte) := [(1, 0), (5, 63), (9, 9), (9, 9)]

theorem witness_SetActionsAndOptionsReplace :
    (let c := Instr.setActions .A 63 3 0 acts;
      Offered (on63 c draft) .A c ∧ Names (on63 c draft) .A 63 63 [.draft] ∧ (3 : Byte) ≠ 1 ∧ (3 : Byte) ≠ 2) ∧
    (let c := Instr.setActions .A 63 1 5 acts;
      Offered (on63 c draft) .A c ∧ Names (on63 c draft) .A 63 63 [.draft] ∧ 4 < (5 : Byte).toNat) ∧
    (let c := Instr.setActions .A 63 2 4 acts;
      Offered (on63 c draft) .A c ∧ Names (on63 c draft) .A 63 63 [.draft] ∧
        ∃ a ∈ acts.take 4, readAction a.1 a.2 = none) ∧
    (let c := Instr.setActions .A 63 1 2 acts;
      Offered (on63 c draft) .A c ∧ Names (on63 c draft) .A 63 63 [.draft] ∧
        (acts.take 2).map (fun a => readAction a.1 a.2) = [Action.notify, Action.arm 63].map some) ∧
    (let c := Instr.setActions .A 63 2 0 acts;
      Offered (on63 c draft) .A c ∧ Names (on63 c draft) .A 63 63 [.draft] ∧
        (acts.take 0).map (fun a => readAction a.1 a.2) = ([] : List Action).map some) ∧
    (let c := Instr.setOptions .A 63 2 0 0;
      Offered (on63 c draft) .A c ∧ Names (on63 c draft) .A 63 63 [.draft] ∧ 1 < (2 : Byte).toNat) ∧
    (let c := Instr.setOptions .A 63 1 8 0;
      Offered (on63 c draft) .A c ∧ Names (on63 c draft) .A 63 63 [.draft] ∧ 7 < (8 : Byte).toNat ∧ (8 : Byte) ≠ 0xFF) ∧
    (let c := Instr.setOptions .A 63 1 7 4;
      Offered (on63 c draft) .A c ∧ Names (on63 c draft) .A 63 63 [.draft] ∧ 3 < (4 : Byte).toNat) ∧
    (let c := Instr.setOptions .A 63 1 7 3;
      Offered (on63 c draft) .A c ∧ Names (on63 c draft) .A 63 63 [.draft] ∧ (1 : Byte) = Repeat.cyclic.code ∧
        (7 : Byte) = groupCode (some 7) ∧ (3 : Byte) = Route.both.code) := by
  refine ⟨?_, ?_, ?_, ?_, ?_, ?_, ?_, ?_, ?_⟩ <;> decide +kernel

theorem witness_SealExamines :
    (let s := on63 (.seal .A 63) { draft with steps := [] };
      Offered s .A (.seal .A 63) ∧ Names s .A 63 63 [.draft] ∧ SealFinds s.engine.table 63 1 0 0) ∧
    (let s := on63 (.seal .A 63) draft;
      Offered s .A (.seal .A 63) ∧ Names s .A 63 63 [.draft] ∧
        ∀ code list pos, ¬SealFinds s.engine.table 63 code list pos) := by
  refine ⟨⟨by decide +kernel, by decide +kernel, .noSteps (by decide +kernel)⟩, by decide +kernel, by decide +kernel, ?_⟩
  have hw : (on63 (.seal .A 63) draft).engine.table.watch 63 = draft := by decide +kernel
  have hs : ∀ T i, ∀ x ∈ draft.steps, ∀ b, ¬StepFaulty T i x b := by
    intro T i x hx b h
    simp only [draft, List.mem_cons, List.not_mem_nil, or_false] at hx
    rcases hx with rfl | rfl <;> cases h <;> simp_all [edgeStep, spanStep, StepDesc.target,
      StepDesc.triggers, LinesDiffer, GuardApart, NoWindowOnDelay, InOrder, SpanInOrder]
  have ha : ∀ T i, ∀ a ∈ draft.metActions ++ draft.failActions, ∀ b, ¬ActionFaulty T i a b := by
    intro T i a ha b h
    simp only [draft, List.cons_append, List.nil_append, List.mem_cons, List.not_mem_nil, or_false] at ha
    rcases ha with rfl | rfl | rfl <;> cases h
  intro code list pos h
  cases h with
  | noSteps h => rw [hw] at h; exact absurd h (by decide +kernel)
  | cyclicFirstFollow _ _ h => rw [hw] at h; exact absurd h (by decide +kernel)
  | step k d code _ h _ hd => rw [hw] at h; exact hs _ _ d (List.mem_of_getElem? h) _ hd
  | metAction k a code _ _ _ h _ hd =>
    rw [hw] at h; exact ha _ _ a (List.mem_append.2 (.inl (List.mem_of_getElem? h))) _ hd
  | failAction k a code _ _ _ _ h _ hd =>
    rw [hw] at h; exact ha _ _ a (List.mem_append.2 (.inr (List.mem_of_getElem? h))) _ hd

theorem witness_ReopenAndAckReturn :
    (Offered (on63 (.reopen .A 63) idle) .A (.reopen .A 63) ∧ Names (on63 (.reopen .A 63) idle) .A 63 63 [.idle]) ∧
    (let s := on63 (.ack .A 63) { idle with state := .concluded };
      Offered s .A (.ack .A 63) ∧ Names s .A 63 63 [.concluded]) := by decide +kernel

theorem witness_RetireFrees :
    let s := withWatch (sent .A (.retire .A 10)) 10 idle
    (Offered s .A (.retire .A 10) ∧ Names s .A 10 10 [.draft, .idle, .concluded] ∧
      ∀ j, (s.engine.watch j).live = true → (s.engine.watch j).followTarget ≠ some 10) ∧
    (let t := withWatch s 63 follower;
      Offered t .A (.retire .A 10) ∧ Names t .A 10 10 [.draft, .idle, .concluded] ∧
        ∃ j, (t.engine.watch j).live = true ∧ (t.engine.watch j).followTarget = some 10) := by decide +kernel

theorem witness_FindAndScanAnswer :
    Offered (sent .B (.find .B 0)) .B (.find .B 0) ∧
    (Offered (sent .B (.find .B 200)) .B (.find .B 200) ∧ (sent .B (.find .B 200)).engine.tags = []) ∧
    (let s0 := sent .B (.find .B 200);
      let s := s0.setEngine { s0.engine with tags := [(7, 1), (200, 63)] };
      Offered s .B (.find .B 200) ∧ s.engine.tags = [(7, 1)] ++ (200, 63) :: [] ∧
        ∀ j : Idx, ((200, j) : BitVec 16 × Idx) ∉ [((7 : BitVec 16), (1 : Idx))]) ∧
    Offered (sent .B (.scan .B 64 1)) .B (.scan .B 64 1) ∧ Offered (sent .B (.scan .B 0 17)) .B (.scan .B 0 17) ∧
    (Offered (sent .B (.scan .B 63 16)) .B (.scan .B 63 16) ∧ (63 : Byte).toNat ≤ 63 ∧ (16 : Byte).toNat ≤ 16) := by
  decide +kernel

theorem witness_ReadWatchAnswers :
    let s (part k : Byte) := on63 (.readWatch .A 63 part k) { idle with owner := some .B }
    (∀ part ∈ [(0 : Byte), 1, 2, 3, 4, 5, 6], ∀ k ∈ [(1 : Byte), 2, 6],
      Offered (s part k) .A (.readWatch .A 63 part k)) ∧
    ((s 4 1).engine.watch 63).state ≠ .free ∧ ((s 4 1).engine.watch 63).steps[1]? = some spanStep ∧
    ((s 4 2).engine.watch 63).steps.length ≤ 2 ∧ ((s 5 1).engine.watch 63).metActions.length ≤ 4 ∧
    ((s 5 1).engine.watch 63).failActions.length ≤ 4 := by decide +kernel

theorem witness_ReadPoolAnswers : Offered (sent .B (.readPool .B)) .B (.readPool .B) := by decide +kernel

theorem witness_StepBegins :
    ((tableWith 63 idle).watch 63).steps[1]? = some spanStep ∧
    ((tableWith 63 follower).watch 63).steps[0]? = some followStep ∧
    TargetFits (tableWith 63 idle) 63 spanStep ∧ ¬GuardHolds ctx0.view spanStep ∧ GuardHolds ctx0.view edgeStep ∧
    TargetFits (tableWith 63 idle) 63 edgeStep ∧ ¬TargetFits (tableWith 63 follower) 63 followStep := by
  decide +kernel

/-- A table with a record of watch 63, and watch 0 following it. -/
def followed (w : Watch) : Table :=
  (pair w { follower with steps := [{ followStep with kind := .follow 63 .met }] }).follow 63 0

theorem witness_StepCompletes :
    (((tableWith 63 idle).watch 63).current + 1 < ((tableWith 63 idle).watch 63).steps.length) ∧
    (((tableWith 63 armed).watch 63).steps.length ≤ ((tableWith 63 armed).watch 63).current + 1) ∧
    (let T := followed { armed with rep := .cyclic, metActions := [.notify, .outSet 7] };
      (T.watch 63).rep = .cyclic ∧ (T.watch 63).metActions ≠ [] ∧ T.followersOf 63 = [0] ∧
        (T.watch 63).steps[0]? = some edgeStep ∧ TargetFits T 63 edgeStep ∧ GuardHolds ctx0.view edgeStep) ∧
    (let d : StepDesc := { edgeStep with guard := some (1, .high) };
      let T := followed { armed with rep := .cyclic, metActions := [.notify], steps := [d] };
      (T.watch 63).rep = .cyclic ∧ (T.watch 63).steps[0]? = some d ∧ TargetFits T 63 d ∧ ¬GuardHolds ctx0.view d) ∧
    (let T := tableWith 63 { follower with rep := .cyclic };
      (T.watch 63).rep = .cyclic ∧ (T.watch 63).steps[0]? = some followStep ∧ ¬TargetFits T 63 followStep) := by
  decide +kernel

/-- A MET conclusion with a follower and actions, one that misses with fail actions, and one of a follower. -/
theorem witness_ConclusionRecorded :
    (let T := followed { armed with metActions := [.notify, .cancel 0] };
      (T.watch 63).rep = .once ∧ (T.watch 63).metActions ≠ [] ∧ T.followersOf 63 = [0] ∧
        ((concluder ctx0 T 63 .met .none 20000).watch 63).state = .concluded ∧
        ((concluder ctx0 T 63 .met .none 20000).watch 0).outcome = .cancelled) ∧
    (let T := followed { armed with rep := .cyclic, failActions := [.outSet 0, .notify] };
      WOutcome.missed ≠ .met ∧ (T.watch 63).failActions ≠ [] ∧ T.followersOf 63 = [0] ∧
        ((concluder ctx0 T 63 .missed .late 20000).watch 0).cause = .chain) ∧
    ((tableWith 63 follower).watch 63).followTarget = some 10 := by decide +kernel

/-- Watches 63 and 5 of group 7 are held, and watch 0 of the same group acts. -/
def heldPair : Table :=
  let w : Watch := { armed with group := some 7, state := .held, heldFrom := some .running }
  (pair w { idle with group := some 7, state := .concluded }).setWatch 5 w

theorem witness_ActionsRunOrSkip :
    let T := pair { armed with group := some 7 } { idle with group := some 7, state := .concluded }
    let held (g : Group) (j : Idx) : Prop := (T.watch j).group = some g ∧ (T.watch j).owner = (T.watch 0).owner
    (held 7 63 ∧ (T.watch 63).runs = true) ∧ (∀ j, held 6 j → (T.watch j).runs = false) ∧
    (∀ j, held 7 j → (T.watch j).state ≠ .held) ∧
    (ReleaseMember heldPair 0 7 5 ∧ ReleaseMember heldPair 0 7 63 ∧
      ReleaseMember (releaseWatch (concluder ctx0) ctx0 heldPair 5) 0 7 63 ∧
      ((runAction (concluder ctx0) ctx0 0 500 heldPair (.releaseGroup 7)).watch 5).state = .running ∧
      ((runAction (concluder ctx0) ctx0 0 500 heldPair (.releaseGroup 7)).watch 63).state = .running) := by
  decide +kernel

theorem witness_ArmStartsRun :
    (let s := on63 (.arm .A 63) idle;
      Offered s .A (.arm .A 63) ∧ Names s .A 63 63 [.idle] ∧
        ∃ l ∈ (s.engine.watch 63).lines, (s.view l).enabled = false) ∧
    (let s := withWatch carton 63 idle;
      Names s .A 63 63 [.idle] ∧ (∀ l ∈ (s.engine.watch 63).lines, (s.view l).enabled = true) ∧
        (s.engine.watch 63).steps[0]? = some edgeStep ∧ TargetFits s.engine.table 63 edgeStep ∧
        GuardHolds s.engine.view edgeStep) ∧
    Offered carton .A (.arm .A 4) ∧
    (let s := on63 (.arm .A 63) { follower with state := .idle };
      Offered s .A (.arm .A 63) ∧ Names s .A 63 63 [.idle] ∧ (s.engine.watch 63).lines = [] ∧
        (s.engine.watch 63).steps[0]? = some followStep ∧ ¬TargetFits s.engine.table 63 followStep) := by
  decide +kernel

theorem witness_CancelConcludes :
    Offered (on63 (.cancel .A 63) armed) .A (.cancel .A 63) ∧
    Names (on63 (.cancel .A 63) armed) .A 63 63 [.armed, .running, .held] ∧
    (on63 (.cancel .A 63) armed).engine.table.followersOf 63 = [] := by decide +kernel

theorem witness_HoldSuspendsReleaseRestarts :
    (Offered (on63 (.hold .A 63) armed) .A (.hold .A 63) ∧
      Names (on63 (.hold .A 63) armed) .A 63 63 [RunState.armed.toWState]) ∧
    (let s := on63 (.release .A 63) { armed with state := .held, heldFrom := some .running };
      Offered s .A (.release .A 63) ∧ Names s .A 63 63 [.held] ∧ (s.engine.watch 63).heldFrom = some .running ∧
        (s.engine.watch 63).step = some edgeStep ∧ TargetFits s.engine.table 63 edgeStep ∧
        GuardHolds s.engine.view edgeStep) ∧
    (let s := on63 (.release .A 63) { follower with state := .held, heldFrom := some .armed };
      Offered s .A (.release .A 63) ∧ Names s .A 63 63 [.held] ∧ (s.engine.watch 63).heldFrom = some .armed ∧
        (s.engine.watch 63).step = some followStep ∧ ¬TargetFits s.engine.table 63 followStep) := by decide +kernel

/-- A snapshot entry of watch 63 in the epoch of `armed`. -/
def entry (r : Role) : SnapEntry := { watch := 63, role := r, epoch := 1 }

/-- An edge of EL3 or EL7. -/
def edge (d : EdgeDir) (stamp : Time) (lost : Bool) : Edge := { dir := d, stamp := stamp, lost := lost }

theorem witness_EdgeTaken :
    let s := (lineOn State.reset 23 .low).setLine 23
      { (lineOn State.reset 23 .low).line 23 with queue := [edge .rise 5 false] }
    ((s.line 23).report = none ∧ (s.line 23).queue = edge .rise 5 false :: [] ∧ (s.view 23).enabled = true) ∧
    ((s.setView 23 { enabled := false, delivered := .low, mark := true }).view 23).enabled = false := by
  decide +kernel

theorem witness_EntryServed :
    let T := tableWith 63 armed
    (T.watch 63).stepStart = some 10000 ∧ (T.watch 63).epoch = (entry .guard).epoch ∧
    (T.watch 63).state ∈ [WState.armed, .running] ∧ (T.watch 63).epoch ≠ ({ entry .trigger with epoch := 2 }).epoch ∧
    ((tableWith 63 { armed with state := .held }).watch 63).state ∉ [WState.armed, .running] ∧
    (edge .rise 5 true).lost = true ∧ (edge .rise 5 false).lost = false ∧ (entry .guard).role = .guard ∧
    (entry .trigger).role = .trigger ∧ 2 ^ 47 ≤ ((edge .rise 9999 false).stamp - 10000).toNat := by decide +kernel

theorem witness_EdgeStepJudged :
    let windowed : StepDesc := { edgeStep with kind := .edge 3 none .rise 2, notBefore := some 50, notAfter := some 400 }
    let T := tableWith 63 { armed with steps := [windowed] }
    (T.watch 63).stepStart = some 10000 ∧ (T.watch 63).epoch = (entry .trigger).epoch ∧
    (T.watch 63).state ∈ [WState.armed, .running] ∧ (T.watch 63).step = some windowed ∧
    windowed.kind = .edge 3 none .rise 2 ∧ (edge .rise 10049 false).lost = false ∧
    ((10049 - 10000 : Time).toNat < 50 ∧ (10050 - 10000 : Time).toNat ≥ 50 ∧ (10400 - 10000 : Time).toNat ≤ 400 ∧
      400 < (10401 - 10000 : Time).toNat ∧ (10401 - 10000 : Time).toNat < 2 ^ 47) ∧
    (T.watch 63).remaining = 1 ∧
    ((tableWith 63 { armed with steps := [windowed], remaining := 2 }).watch 63).remaining ≠ 1 ∧
    (10404 - 10401 : Time).toNat < 2 ^ 47 ∧ ¬(10400 - 10401 : Time).toNat < 2 ^ 47 := by decide +kernel

theorem witness_SpanStepJudged :
    let w : Watch := { armed with steps := [spanStep], remaining := 0, phase := .waitEntry }
    let T := tableWith 63 w
    let U := tableWith 63 { w with phase := .inSpan, state := .running, spanStart := some 10300 }
    (T.watch 63).stepStart = some 10000 ∧ (T.watch 63).epoch = (entry .trigger).epoch ∧
    (T.watch 63).state ∈ [WState.armed, .running] ∧ (T.watch 63).step = some spanStep ∧ (T.watch 63).phase = .waitEntry ∧
    (U.watch 63).stepStart = some 10000 ∧ (U.watch 63).epoch = (entry .trigger).epoch ∧
    (U.watch 63).state ∈ [WState.armed, .running] ∧ (U.watch 63).step = some spanStep ∧ (U.watch 63).phase = .inSpan ∧
    (U.watch 63).spanStart = some 10300 ∧ spanStep.kind = .span 7 .high (some 50) (some 500) ∧
    ((10349 - 10300 : Time).toNat < 50 ∧ 500 < (10801 - 10300 : Time).toNat ∧ (10800 - 10300 : Time).toNat ≤ 500) := by
  decide +kernel

theorem witness_DeliveryJudged :
    let windowed : StepDesc := { followStep with notBefore := some 50, notAfter := some 400 }
    let T := tableWith 63 { follower with steps := [windowed] }
    (T.watch 63).stepStart = some 100 ∧ (T.watch 63).epoch = 7 ∧ (T.watch 63).state ∈ [WState.armed, .running] ∧
    (T.watch 63).followTarget = some 10 ∧ (T.watch 63).step = some windowed ∧ windowed.kind = .follow 10 .met ∧
    (T.watch 63).epoch ≠ 8 ∧ 2 ^ 47 ≤ (99 - 100 : Time).toNat ∧ (149 - 100 : Time).toNat < 50 ∧
    400 < (501 - 100 : Time).toNat ∧ (500 - 100 : Time).toNat ≤ 400 ∧ WOutcome.missed ≠ .none := by decide +kernel

/-- A state with one deadline, due 10,521. -/
def due10521 (now : Time) : State :=
  let s := { State.reset with time := { Timebase.reset with now := now } }
  s.setEngine (s.engine.withTable { (tableWith 63 armed) with deadlines := [{ watch := 63, due := 10521, kind := .late }] })

theorem witness_DeadlineExpiry :
    (due10521 10520).engine.table.deadlines = { watch := 63, due := 10521, kind := .late } :: [] ∧
    2 ^ 47 ≤ ((due10521 10520).time.now - 10521).toNat ∧
    (due10521 10521).engine.table.deadlines = { watch := 63, due := 10521, kind := .late } :: [] ∧
    ((due10521 10521).time.now - 10521).toNat < 2 ^ 47 := by decide +kernel

/-- HOLD_GROUP 7 of port A with members at 0 and 63, or with the request of a later visit. -/
def sweeping : State :=
  let w : Watch := { armed with group := some 7 }
  withWatch (on63 (.holdGroup .A 7) w) 0 w

/-- The statement's membership, in a sweep of port A on group 7. -/
abbrev member7 (T : Table) (i : Idx) : Prop :=
  (T.watch i).state ≠ .free ∧ (T.watch i).owner = some .A ∧ ∀ g : Group, some 7 = some g → (T.watch i).group = some g

theorem witness_SweepRequest :
    SweepTaken sweeping .A (.holdGroup .A 7)
      { kind := .hold, group := some 7, next := 0, affected := 0, skipped := 0 } ∧
    (member7 sweeping.engine.table 0 ∧
      member7 (visit .hold sweeping.ctx sweeping.engine 0).1.table 63) ∧
    (let s := sent .A (.holdGroup .A 7);
      SweepTaken s .A (.holdGroup .A 7) { kind := .hold, group := some 7, next := 0, affected := 0, skipped := 0 } ∧
      ∀ i, ¬member7 s.engine.table i) ∧
    (let s := run (.holdGroup .A 7) sweeping;
      SweepTaken s .A (.sweepVisit .A) { kind := .hold, group := some 7, next := 1, affected := 1, skipped := 0 } ∧
      member7 s.engine.table 63 ∧
      ∀ j > 63, ¬member7 (visit .hold s.ctx s.engine 63).1.table j) ∧
    (Offered (sent .A (.armGroup .A 8)) .A (.armGroup .A 8) ∧ 7 < (8 : Byte).toNat ∧
      ((sent .A (.armGroup .A 8)).sweep .A).stop = false) := by
  refine ⟨.first _ .hold (some 7) (by decide +kernel) (by decide +kernel) (by decide +kernel), by decide +kernel, ?_, ?_,
    by decide +kernel⟩
  · exact ⟨.first _ .hold (some 7) (by decide +kernel) (by decide +kernel) (by decide +kernel), by decide +kernel⟩
  · exact ⟨.visit (.holdGroup .A 7) _ (by decide +kernel) (by decide +kernel) (by decide +kernel) (by decide +kernel)
      (by decide +kernel) (by decide +kernel), by decide +kernel, by decide +kernel⟩

theorem witness_SweepVisits : (63 : Byte).toNat = (63 : Idx).val ∧ (sweeping.engine.watch 63).state ≠ .free ∧
    (sweeping.engine.watch 63).owner = some .A := by decide +kernel

theorem witness_SweepStop :
    let first := sweeping.requestStop .A
    let later := (run (.holdGroup .A 7) sweeping).requestStop .A
    ((first.port .A).inExec = some (.holdGroup .A 7) ∧ (first.sweep .A).stop = true ∧
      (first.port .A).request = some .first ∧ (first.port .B).request = none) ∧
    ((later.port .A).inExec = some (.holdGroup .A 7) ∧ (later.sweep .A).stop = true ∧
      (later.port .A).request = some .visit ∧ (later.port .B).request = none ∧ (later.sweep .A).run.isSome = true) ∧
    (Instr.holdGroup .A 7).isSweep = true ∧ (Instr.holdGroup .A 7).issuer = some .A := by decide +kernel

theorem witness_SetTimebaseForwarded :
    Offered (sent .A (.setTimebase .A 0)) .A (.setTimebase .A 0) ∧
    (Offered (on63 (.setTimebase .A 1) armed) .A (.setTimebase .A 1) ∧
      ∃ i, ((on63 (.setTimebase .A 1) armed).engine.watch i).live = true) ∧
    (Offered (sent .A (.setTimebase .A 0xFFFF)) .A (.setTimebase .A 0xFFFF) ∧
      ∀ i, ((sent .A (.setTimebase .A 0xFFFF)).engine.watch i).live = false) ∧
    (run (.setTimebase .A 0xFFFF) (sent .A (.setTimebase .A 0xFFFF))).dividerPath =
      { divider := 0xFFFF, reply := some .A } :: [] := by decide +kernel

theorem witness_TimeHoldRunRead : ((sent .A (.timeHold .A)).port .A).inExec = some (.timeHold .A) ∧
    ((sent .B (.timeRun .B)).port .B).inExec = some (.timeRun .B) ∧
    ((sent .B (.readTime .B)).port .B).inExec = some (.readTime .B) := by decide +kernel

/-- The counts stand below their dividers at their highest, and at 0; in HELD nothing more is asked. -/
theorem witness_TickCountsTime :
    (let s : State := { State.reset with time := { Timebase.reset with now := 0xFFFFFFFFFFFF, partialCount := 999 }
                                         lineUnit := { LineUnit.reset with sampleCounter := 99 } };
      s.time.hold = .running ∧ s.time.partialCount < s.time.divider.toNat ∧
        s.lineUnit.sampleCounter < s.lineUnit.sampleDivider.toNat) ∧
    (State.reset.time.hold = .running ∧ State.reset.time.partialCount < State.reset.time.divider.toNat ∧
      State.reset.lineUnit.sampleCounter < State.reset.lineUnit.sampleDivider.toNat) ∧
    (run (.timeHold .A) (sent .A (.timeHold .A))).time.hold = .held := by decide +kernel

theorem witness_DeadlineListOrdered :
    [(⟨1, 0xFFFFFFFFFFCE, .late⟩ : Deadline), ⟨2, 30, .late⟩].Pairwise
      (fun x y => offset 0xFFFFFFFFFF9C x.due ≤ offset 0xFFFFFFFFFF9C y.due) := by decide +kernel

theorem witness_SetLineForwarded :
    Offered (sent .A (.setLine .A 24 0 0 0)) .A (.setLine .A 24 0 0 0) ∧
    Offered (sent .A (.setLine .A 23 0 0 16)) .A (.setLine .A 23 0 0 16) ∧
    (let c := Instr.setLine .A 23 1 1 15;
      Offered (sent .A c) .A c ∧ (23 : Byte).toNat = (23 : Line).val ∧ (1 : Byte) = yesNo true ∧
        (1 : Byte) = Polarity.inverted.code ∧ (15 : Byte) = (15 : BitVec 4).setWidth 8 ∧
        ((sent .A c).view 23).mark = false ∧ (sent .A c).engine.table.listenersOf 23 = [] ∧
        ∀ i, ((sent .A c).engine.watch i).live = false) ∧
    (let c := Instr.setLine .A 3 0 0 0;
      Offered (lineOn (on63 c armed) 3 .low) .A c ∧ ((lineOn (on63 c armed) 3 .low).engine.watch 63).live = true ∧
        3 ∈ ((lineOn (on63 c armed) 3 .low).engine.watch 63).lines ∧
        ((lineOn (on63 c armed) 3 .low).line 3).config.enable = true) := by decide +kernel

/-- SET_LINE of EL23 forwarded, and its level report waiting. -/
def configured : State := run (.setLine .A 23 1 0 15) (sent .A (.setLine .A 23 1 0 15))

theorem witness_LineApplyAndReport :
    configured.linePath = { line := 23, config := { enable := true, polarity := .normal, filter := 15 }, reply := some .A } :: [] ∧
    ((run (.setLineApply 0x800000) configured).line 23).report =
      some { enable := true, level := .high, stamp := 0, lost := false, reply := some .A } ∧
    (let x := (lineOn configured 23 .low).line 23;
      ((run (.setLineApply 0) ((lineOn configured 23 .low).setLine 23 { x with
        queue := [edge .rise 5 false] })).line 23).report =
        some { enable := true, level := .low, stamp := 0, lost := true, reply := some .A }) := by decide +kernel

theorem witness_LineUnitCommandsAnswer :
    ((sent .B (.maskLine .B 24)).port .B).inExec = some (.maskLine .B 24) ∧
    ((sent .B (.maskLine .B 23)).port .B).inExec = some (.maskLine .B 23) ∧
    ((sent .B (.unmaskLine .B 23)).port .B).inExec = some (.unmaskLine .B 23) ∧
    ((sent .B (.readLine .B 23)).port .B).inExec = some (.readLine .B 23) ∧ (23 : Byte).toNat = (23 : Line).val ∧
    ((sent .B (.readLevels .B)).port .B).inExec = some (.readLevels .B) ∧
    ((sent .B (.setSampling .B 0)).port .B).inExec = some (.setSampling .B 0) ∧
    ((sent .B (.setSampling .B 255)).port .B).inExec = some (.setSampling .B 255) := by decide +kernel

theorem witness_SampleFilters :
    let x := (lineOn State.reset 23 .low).line 23
    (State.reset.time.partialCount < State.reset.time.divider.toNat ∧
      State.reset.lineUnit.sampleCounter < State.reset.lineUnit.sampleDivider.toNat) ∧
    (x.config.enable = true ∧ x.masked = false ∧ x.accepted = .low ∧ x.config.polarity = .normal) ∧
    x.config.filter.toNat ≤ x.progress ∧ x.queue.length < 2 ∧
    ({ x with config := { x.config with filter := 15 }, progress := 14 } : LineState).progress < 15 ∧
    ({ x with queue := [edge .rise 1 false, edge .fall 2 false] } : LineState).queue =
      [edge .rise 1 false, edge .fall 2 false] := by decide +kernel

theorem witness_OutputActionsApply :
    (outHead (.action .set 7 63)).engine.table.outPath = .action .set 7 63 :: [] ∧
    (outHead (.action .clear 7 63)).engine.table.outPath = .action .clear 7 63 :: [] ∧
    (outHead (.action .release 7 63)).engine.table.outPath = .action .release 7 63 :: [] ∧
    (outHead (.purge 63)).engine.table.outPath = .purge 63 :: [] ∧
    (let s := State.reset.setOutput 7 { OutputState.reset with mode := .pulse, pulseEnd := some 0 };
      (s.output 7).pulseEnd = some 0 ∧ (s.time.now - 0).toNat < 2 ^ 47) := by decide +kernel

theorem witness_HostOutputCommandsServed :
    Offered (sent .A (.setOutput .A 8 0 1 0)) .A (.setOutput .A 8 0 1 0) ∧
    Offered (sent .A (.setOutput .A 7 1 0 1)) .A (.setOutput .A 7 1 0 1) ∧
    (Offered (sent .A (.setOutput .A 7 1 0xFFFF 1)) .A (.setOutput .A 7 1 0xFFFF 1) ∧
      (7 : Byte).toNat = (7 : Output).val ∧ (1 : Byte) = OutMode.pulse.code ∧ (1 : Byte) = OutPolarity.activeLow.code) ∧
    Offered (sent .A (.forceOutput .A 7 3)) .A (.forceOutput .A 7 3) ∧
    (Offered (sent .A (.forceOutput .A 7 2)) .A (.forceOutput .A 7 2) ∧ (2 : Byte) = Force.off.code) ∧
    Offered (sent .A (.releaseOutput .A 8)) .A (.releaseOutput .A 8) ∧
    Offered (sent .A (.releaseOutput .A 7)) .A (.releaseOutput .A 7) ∧
    Offered (sent .A (.readOutput .A 8)) .A (.readOutput .A 8) ∧
    Offered (sent .A (.readOutput .A 7)) .A (.readOutput .A 7) ∧
    (outHead (.setOutput .A 7 .pulse 1 .activeLow)).engine.table.outPath = .setOutput .A 7 .pulse 1 .activeLow :: [] ∧
    (outHead (.forceOutput .A 7 .on)).engine.table.outPath = .forceOutput .A 7 .on :: [] ∧
    (outHead (.releaseOutput .A 7)).engine.table.outPath = .releaseOutput .A 7 :: [] ∧
    (outHead (.readOutput .A 7)).engine.table.outPath = .readOutput .A 7 :: [] := by decide +kernel

/-- A snapshot of watch 63. -/
def snap : Snapshot :=
  { index := 63, tag := 200, outcome := .missed, cause := .late, failing := some 1, concludedAt := 11401, cycles := 1 }

theorem witness_NoticePathTaken :
    (State.reset.setNoticePath [.post .both snap]).engine.table.noticePath = .post .both snap :: [] ∧
    (State.reset.setNoticePath [.purge 63]).engine.table.noticePath = .purge 63 :: [] := by decide +kernel

theorem witness_NoticeCommandsServed :
    (((sent .A (.takeNotice .A)).port .A).inExec = some (.takeNotice .A) ∧
      ∀ i : Idx, ((sent .A (.takeNotice .A)).notice .A).pending[i] = none) ∧
    (let s := run .noticePost ((sent .A (.takeNotice .A)).setNoticePath [.post .a snap]);
      (s.port .A).inExec = some (.takeNotice .A) ∧
        (s.notice .A).pending[(63 : Idx)] = some { snap := snap, overrun := false } ∧ snap.index = 63 ∧
        ∀ j < (63 : Idx), (s.notice .A).pending[j] = none) ∧
    ((sent .A (.ackNotice .A 64)).port .A).inExec = some (.ackNotice .A 64) ∧
    ((sent .A (.ackNotice .A 63)).port .A).inExec = some (.ackNotice .A 63) ∧
    ((sent .A (.setNoticeEnable .A 2)).port .A).inExec = some (.setNoticeEnable .A 2) ∧
    ((sent .A (.setNoticeEnable .A 1)).port .A).inExec = some (.setNoticeEnable .A 1) := by decide +kernel

theorem witness_PeekNoticesAnswers : ((sent .B (.peekNotices .B)).port .B).inExec = some (.peekNotices .B) := by
  decide +kernel

/-- A state in which a transaction has opened on both ports, port B's for a write. -/
def opened (s : State) : State := (s.openBus .A (.select 0xA0)).openBus .B (.start 0x70 0xA0)

/-- A state in which a port is past the first byte of a transaction. -/
def past (s : State) (p : Port) : State := s.setPort p { s.port p with bus := .running }

theorem witness_StatusShiftsMarks :
    ((0x72 : Byte).toNat / 2 ≠ State.reset.portBAddress.toNat ∧ (0x00 : Byte).toNat / 2 ≠ State.reset.portBAddress.toNat) ∧
    (Hears State.reset .A (.select 0x9F) ∧ Hears State.reset .B (.start 0x70 0xA3) ∧
      Hears State.reset .B (.start 0x71 0x9F) ∧ sentCode (.start 0x71 0x9F) = none ∧
      (State.reset.port .A).bus = .free ∧ (State.reset.port .B).bus = .free) ∧
    (sentCode (.select 0x9F) = some 0x9F ∧ ((opened State.reset).port .A).bus = .opened ∧
      (0x9F : Byte) ∉ [(0xA0 : Byte), 0xA1, 0xA2, 0xA3] ∧ (0xA4 : Byte) ∉ [(0xA0 : Byte), 0xA1, 0xA2, 0xA3]) ∧
    (sentCode (.start 0x70 0xA3) = some 0xA3 ∧ ((opened State.reset).port .B).bus = .opened ∧
      ((opened State.reset).port .B).capture = none) ∧
    (((past (opened State.reset) .A).port .A).capture.isSome = true ∧
      ((past (opened State.reset) .A).port .A).bus = .running) ∧
    ((State.reset.openBus .B (.start 0x71 0)).port .B).capture.isSome = true := by
  simp only [Hears]
  decide +kernel

theorem witness_CommandAndAbortByState :
    (Hears State.reset .A (.select 0xA0) ∧ Hears State.reset .A (.select 0xA2) ∧
      Hears State.reset .B (.start 0x70 0xA0) ∧ Hears State.reset .B (.start 0x70 0xA2) ∧
      sentCode (.select 0xA0) = some 0xA0 ∧ sentCode (.start 0x70 0xA2) = some 0xA2) ∧
    (let s := opened State.reset;
      (s.port .A).bus = .opened ∧ (s.port .A).phase = .ready ∧ (s.port .B).bus = .opened ∧
        (s.port .B).capture = none ∧ (s.port .B).phase = .ready) ∧
    (let s := opened (State.reset.answer .A (.ok []));
      (s.port .A).bus = .opened ∧ (s.port .A).phase = .holding) ∧
    (let s := opened (sent .B (.clearOwned .B));
      (s.port .B).bus = .opened ∧ (s.port .B).capture = none ∧ (s.port .B).phase = .executing ∧
        (s.port .B).abort = false ∧ (s.port .B).inExec = some (.clearOwned .B)) ∧
    (let s := opened (run (.abort { opening := .start 0x70 0xA2, part := .whole 0 }) (sent .B (.readPool .B)));
      (s.port .B).bus = .opened ∧ (s.port .B).capture = none ∧ (s.port .B).phase = .executing ∧
        (s.port .B).abort = true) := by
  simp only [Hears]
  decide +kernel

theorem witness_FrameTaken :
    (let s := run (.command { opening := .select 0xA0, part := .whole }) State.reset;
      (s.port .A).bus = .running ∧ (s.port .A).capture = none ∧ (s.port .A).fetch = none ∧
        (s.port .A).phase = .receiving) ∧
    (let s := run (.command { opening := .select 0xA0, part := .whole }) (sent .A (.readPool .A));
      (s.port .A).bus = .running ∧ (s.port .A).capture = none ∧ (s.port .A).fetch = none ∧
        (s.port .A).phase ≠ .receiving) ∧
    readFrame .A [] = .faulty ∧
    readFrame .A [0xFF, 0x00, crc [0xFF, 0x00]] = .unknown ∧ readFrame .A [0x20, 0x00, crc [0x20, 0x00]] = .badLength ∧
    readFrame .A [0x70, 0x00, 0xA2] = .sound (.identify .A) ∧
    readFrame .A [0x20, 0x01, 63, crc [0x20, 0x01, 63]] = .sound (.arm .A 63) ∧ Instr.arm .A 63 ≠ .identify .A := by
  decide +kernel

theorem witness_FetchFreesHeld :
    let s := State.reset.answer .A (.ok identifyBytes)
    (Hears s .A (.select 0xA1) ∧ sentCode (.select 0xA1) = some 0xA1 ∧ Hears s .B (.start 0x70 0xA1) ∧
      Hears s .B (.start 0x71 0) ∧ sentCode (.start 0x71 0) = none ∧ Hears s .A (.select 0x9F) ∧
      sentCode (.select 0x9F) = some 0x9F) ∧
    (((opened s).port .A).bus = .opened ∧ ((opened s).port .B).bus = .opened ∧ ((opened s).port .B).capture = none) ∧
    (let t := run (.fetch .A (.select 0xA1) (.head .whole)) s;
      (t.port .A).bus = .running ∧ (t.port .A).capture = none ∧ (t.port .A).phase ≠ .receiving ∧
        (t.port .A).fetch = some { rest := (Response.ok identifyBytes).bytes, live := true } ∧
        ((run (.fetch .A (.select 0xA1) (.clock 13)) t).port .A).fetch = some { rest := [], live := true }) ∧
    (let t := run (.status (.select 0xA3) (.head .whole)) s;
      (t.port .A).bus = .running ∧ (t.port .A).capture = none ∧ (t.port .A).fetch = none) ∧
    (let t := run (.command { opening := .select 0xA0, part := .whole }) State.reset;
      (t.port .A).bus ≠ .free ∧ (t.port .A).phase = .receiving) ∧
    ((s.port .A).bus = .free ∧ (s.port .A).phase = .holding ∧ (s.port .A).held = some (.ok identifyBytes) ∧
      (Response.ok identifyBytes).bytes.length = 13) := by
  simp only [Hears]
  decide +kernel

theorem witness_DeviceResetClears : Offered (on63 (.deviceReset .A) armed) .A (.deviceReset .A) := by decide +kernel

/-- A READ_POOL of port B in execution and waiting. -/
def reading : State := { sent .B (.readPool .B) with pending := [.readPool .B] }

theorem reading_watch (i : Idx) : reading.engine.watch i = Watch.free := by
  simp [reading, sent, State.reset, State.place, State.setPort, Engine.reset, Table.reset, Engine.watch, Table.watch]

theorem reading_lists : (∀ l, reading.engine.table.listenersOf l = []) ∧
    (∀ t, reading.engine.table.followersOf t = []) ∧ reading.engine.table.deadlines = [] := by
  simp [reading, sent, State.reset, State.place, State.setPort, Engine.reset, Table.reset, Table.listenersOf,
    Table.followersOf]

theorem reading_line (l : Line) : reading.line l = LineState.reset ∧
    reading.view l = { enabled := false, delivered := .low, mark := false } := by
  simp [reading, sent, State.reset, State.place, State.setPort, Engine.reset, State.line, State.view, LineUnit.reset]

theorem reading_steps : ∃ t, step reading = .next t := ⟨_, rfl⟩

theorem reading_listsInv : ListsInv reading.engine.table := by
  have h : ∀ i, reading.engine.table.watch i = Watch.free := reading_watch
  obtain ⟨hl, hf, hd⟩ := reading_lists
  constructor <;> simp [hl, hf, hd, h, Watch.free]

theorem witness_StepKeepsPool : PoolInv reading.engine ∧ ∃ t, step reading = .next t :=
  ⟨⟨by decide +kernel, by decide +kernel⟩, reading_steps⟩

theorem witness_StepKeepsLists : ListsInv reading.engine.table ∧ ∃ t, step reading = .next t :=
  ⟨reading_listsInv, reading_steps⟩

theorem witness_StepKeepsRecords : ListsInv reading.engine.table ∧ RecordsInv reading.engine ∧
    ∃ t, step reading = .next t := by
  refine ⟨reading_listsInv, ?_, reading_steps⟩
  constructor
  · intro i
    rw [reading_watch]
    constructor <;> simp [Watch.free, OutcomePair, Watch.live, Watch.runs]
  · intro tag i
    rw [reading_watch]
    simp [Watch.free, reading, sent, State.reset, State.place, State.setPort, Engine.reset]
  · simp [reading, sent, State.reset, State.place, State.setPort, Engine.reset]

theorem witness_StepKeepsPorts : PortsInv reading ∧ ∃ t, step reading = .next t := by
  refine ⟨fun p => ?_, reading_steps⟩
  cases p <;> constructor <;>
    simp [reading, sent, State.reset, State.place, State.setPort, State.port, PerPort.set, PerPort.get, PortState.reset,
      Instr.isDirect, Instr.issuer]

/-- A post to take, under the entry of its own index. -/
def posting : State :=
  let s := State.reset.setNoticePath [.post .a snap]
  { s.setNotice .A { s.notice .A with pending := (s.notice .A).pending.set 63 (some { snap := snap, overrun := false }) }
    with pending := [.noticePost] }

theorem snap_wf : SnapshotWf snap := by constructor <;> simp [snap, OutcomePair]

theorem posting_pending : ∀ (i : Idx), ((posting.notice .A).pending[i] =
    if (63 : Idx) = i then some { snap := snap, overrun := false } else none) ∧
    (posting.notice .B).pending[i] = none := by decide +kernel

theorem witness_StepKeepsNotices : NoticesInv posting ∧ ∃ t, step posting = .next t := by
  refine ⟨⟨fun p i n h => ?_, fun route n h => ?_⟩, ⟨_, rfl⟩⟩
  · cases p
    · rw [(posting_pending i).1] at h
      split at h
      · next e => cases h; exact ⟨e, snap_wf⟩
      · cases h
    · rw [(posting_pending i).2] at h
      cases h
  · have hp : posting.engine.table.noticePath = [.post .a snap] := rfl
    rw [hp, List.mem_singleton] at h
    cases h
    exact snap_wf

theorem witness_StepKeepsUnits : UnitsInv reading ∧ OutputsInv reading ∧ ∃ t, step reading = .next t := by
  refine ⟨⟨by decide +kernel, by decide +kernel, by decide +kernel, fun l => ?_⟩, ⟨fun o => ?_, ?_⟩, reading_steps⟩
  · rw [(reading_line l).1]
    constructor <;> simp [LineState.reset]
  · constructor <;>
      simp [reading, sent, State.reset, State.place, State.setPort, State.output, OutputState.reset,
        Config.resetPulseWidth]
  · simp [reading, sent, State.reset, State.place, State.setPort, Engine.reset, Table.reset]

theorem witness_StepKeepsEnabled : ListsInv reading.engine.table ∧ EnabledInv reading ∧ ∃ t, step reading = .next t := by
  refine ⟨reading_listsInv, ?_, reading_steps⟩
  constructor
  · intro i h
    rw [reading_watch] at h
    exact absurd h (by decide)
  · intro l
    have hp : reading.linePath = [] := rfl
    constructor <;> simp [(reading_line l).1, (reading_line l).2, LineState.reset, hp]

end Sys2Proof.Tests
end

/-! PROOFS. The definition of a watch: the step descriptor and the action read back from their bytes (O5), the
commands that write a definition (O8 to O10, O12), the reading of the pool (O16) and the examination of SEAL (O11). -/

namespace Sys2Proof.Machine

open Sys2Proof

/-! ### Codes read back: a byte reads as a value exactly when it is that value's code (R197, R201) -/

theorem indexOf_eq_some {n : Nat} (hn : n ≤ 256) (b : Byte) (i : Fin n) :
    indexOf n b = some i ↔ indexByte i = b := by
  have hi := i.isLt
  unfold indexOf indexByte
  split
  · simp only [Option.some.injEq, Fin.ext_iff, ← BitVec.toNat_inj, BitVec.toNat_ofNat]
    omega
  · next h =>
    simp only [reduceCtorEq, false_iff]
    rintro rfl
    simp only [BitVec.toNat_ofNat] at h
    omega

theorem levelOf_eq_some (b : Byte) (v : Level) : levelOf b = some v ↔ v.code = b := by
  unfold levelOf
  cases v <;> grind [Level.code]

theorem edgeKindOf_eq_some (b : Byte) (k : EdgeKind) : edgeKindOf b = some k ↔ k.code = b := by
  unfold edgeKindOf
  cases k <;> grind [EdgeKind.code]

theorem wantedOf_eq_some (b : Byte) (w : Wanted) : wantedOf b = some w ↔ w.code = b := by
  unfold wantedOf
  cases w <;> grind [Wanted.code]

theorem nonzero_eq_some (d x : Duration) : nonzero d = some x ↔ x ≠ 0 ∧ x = d := by
  unfold nonzero
  split <;> grind

/-- Bit `k` of a map is mark `k` (R197). -/
theorem mapNumber_testBit (marks : List Bool) (k : Nat) : (mapNumber marks).testBit k = marks.getD k false := by
  induction marks generalizing k with
  | nil => simp [mapNumber]
  | cons b l ih =>
    have hb : mapNumber (b :: l) = Nat.bit b (mapNumber l) := by
      cases b <;> simp [mapNumber, Nat.bit, Nat.add_comm 1]
    cases k with
    | zero => simp [hb]
    | succ k => simp [hb, Nat.testBit_bit_succ, ih]

/-- Bit `n` of a flag byte is flag `n` (R198). -/
theorem flagByte_getLsbD (flags : List Bool) {n : Nat} (hn : n < 8) :
    (flagByte flags).getLsbD n = flags.getD n false := by
  rw [flagByte, BitVec.getLsbD_ofNat, mapNumber_testBit, decide_eq_true hn, Bool.true_and]

theorem flagByte_eq_iff (flags : List Bool) (x : Byte) :
    flagByte flags = x ↔ ∀ n : Fin 8, flags.getD n false = x.getLsbD n := by
  constructor
  · rintro rfl n
    exact (flagByte_getLsbD flags n.isLt).symm
  · intro h
    exact BitVec.eq_of_getLsbD_eq fun n hn => by rw [flagByte_getLsbD flags hn]; exact h ⟨n, hn⟩

/-! ### The fields of a descriptor: what each reads as, in terms of its flag and the bytes examined (R198, R202) -/

/-- A duration and its three bytes, the most significant first (R197). -/
theorem durationBytes_some_eq (d : Duration) (a b c : Byte) :
    durationBytes (some d) = [a, b, c] ↔ d = a ++ b ++ c := by
  simp only [durationBytes, bytesOf, Option.elim_some, List.cons.injEq, and_true, ← BitVec.toNat_inj,
    BitVec.toNat_ofNat, BitVec.toNat_append, Nat.shiftRight_eq_div_pow]
  rw [← Nat.shiftLeft_add_eq_or_of_lt c.isLt, ← Nat.shiftLeft_add_eq_or_of_lt b.isLt]
  simp only [Nat.shiftLeft_eq]
  omega

/-- The byte of a descriptor at an offset, 0 beyond its end. -/
def byteAt (bs : List Byte) (k : Nat) : Byte := bs.getD k 0

theorem getD_eq_byteAt (bs : List Byte) (k : Nat) : bs.getD k 0 = byteAt bs k := rfl

/-- The three bytes of a descriptor from an offset on. -/
def tripleAt (bs : List Byte) (k : Nat) : List Byte := [byteAt bs k, byteAt bs (k + 1), byteAt bs (k + 2)]

/-- A duration that must be present: its three bytes, and 0 no value of it (R30). -/
theorem nonzero_durationAt_eq_some (bs : List Byte) (k : Nat) (d : Duration) :
    nonzero (durationAt bs k) = some d ↔ d ≠ 0 ∧ durationBytes (some d) = tripleAt bs k := by
  rw [nonzero_eq_some, tripleAt, durationBytes_some_eq]
  rfl

/-- An optional field is the one its flag and its value bytes say: present exactly when the flag is set, with the value
bytes for its code, and otherwise with the code of an absent field. -/
def FieldIs {α β : Type} (code : Option α → β) (flag : Bool) (value : β) (o : Option α) : Prop :=
  o.isSome = flag ∧ code o = if flag then value else code none

/-- An optional field reads as what its flag and its value bytes say, if a present one does. -/
theorem optionalField_eq_some {α β : Type} {code : Option α → β} {read : Option α} {value : β}
    {ok : Option α → Prop} (hnone : ok none) (hread : ∀ x, read = some x ↔ ok (some x) ∧ code (some x) = value)
    (flag : Bool) (o : Option α) : optionalField flag read = some o ↔ ok o ∧ FieldIs code flag value o := by
  cases flag <;> cases o <;> simp [optionalField, FieldIs, hnone, hread]

/-- The two bytes of a guard: 0 when absent (R198, R202). -/
def guardBytes (g : Option (Line × Level)) : Byte × Byte :=
  (g.elim 0 fun x => indexByte x.1, g.elim 0 fun x => x.2.code)

theorem optionalField_guard_eq_some (flag : Bool) (b v : Byte) (g : Option (Line × Level)) :
    optionalField flag (do
      let l ← indexOf 24 b
      let x ← levelOf v
      some (l, x)) = some g ↔ FieldIs guardBytes flag (b, v) g := by
  rw [optionalField_eq_some (code := guardBytes) (value := (b, v)) (ok := fun _ => True) trivial, true_and]
  rintro ⟨l, x⟩
  simp [Option.bind_eq_some_iff, indexOf_eq_some, levelOf_eq_some, guardBytes]

/-- The byte of an optional line: 0 when absent (R198, R202). -/
def lineByte (q : Option Line) : Byte := q.elim 0 indexByte

theorem optionalField_line_eq_some (flag : Bool) (b : Byte) (q : Option Line) :
    optionalField flag (indexOf 24 b) = some q ↔ FieldIs lineByte flag b q := by
  rw [optionalField_eq_some (code := lineByte) (value := b) (ok := fun _ => True) trivial, true_and]
  simp [indexOf_eq_some, lineByte]

theorem optionalField_duration_eq_some (flag : Bool) (bs : List Byte) (k : Nat) (o : Option Duration) :
    optionalField flag (nonzero (durationAt bs k)) = some o ↔
      o ≠ some 0 ∧ FieldIs durationBytes flag (tripleAt bs k) o := by
  rw [optionalField_eq_some (code := durationBytes) (ok := (· ≠ some 0)) (by simp)]
  simp [nonzero_durationAt_eq_some]

/-- An optional duration's bytes at the front of a run are told apart from what follows, being three. -/
theorem durationBytes_append_eq (o : Option Duration) (flag : Bool) (bs : List Byte) (k : Nat) (l l' : List Byte) :
    durationBytes o ++ l = (if flag then tripleAt bs k else durationBytes none) ++ l' ↔
      (durationBytes o = if flag then tripleAt bs k else durationBytes none) ∧ l = l' := by
  have len : (durationBytes o).length = (if flag then tripleAt bs k else durationBytes none).length := by
    cases flag <;> rfl
  exact ⟨fun h => List.append_inj h len, fun h => by rw [h.1, h.2]⟩

/-! ### The kind of a descriptor (R22 to R25) -/

/-- The presence flags of a kind's own fields are those of a flag byte (R202). -/
def StepKind.FlagsFit (flags : Byte) : StepKind → Prop
  | .edge _ q _ _ => q.isSome = flags.getLsbD 3
  | .span _ _ mn mx => mn.isSome = flags.getLsbD 4 ∧ mx.isSome = flags.getLsbD 5
  | .delay _ | .follow _ _ => True

/-- Offsets 10 to 19 of a descriptor as they are examined. -/
def examinedTail (bs : List Byte) : List Byte := (List.range' 10 10).map (examinedByte bs)

theorem readKind_code {bs : List Byte} {k : StepKind} (h : readKind bs = some k) : k.code = byteAt bs 0 := by
  simp only [readKind, Option.bind_eq_bind] at h
  split_ifs at h with h1 hn h2 h3 h4 <;> simp only [Option.bind_eq_some_iff] at h
  · obtain ⟨p, -, q, -, kind, -, ⟨⟩⟩ := h
  · obtain ⟨p, -, q, -, kind, -, ⟨⟩⟩ := h
    exact h1.symm
  · obtain ⟨p, -, v, -, mn, -, mx, -, ⟨⟩⟩ := h
    exact h2.symm
  · obtain ⟨d, -, ⟨⟩⟩ := h
    exact h3.symm
  · obtain ⟨t, -, w, -, ⟨⟩⟩ := h
    exact h4.symm

theorem readKind_eq_edge {bs : List Byte} (h : byteAt bs 0 = 1) (p : Line) (q : Option Line) (kind : EdgeKind)
    (n : Byte) : readKind bs = some (.edge p q kind n) ↔ indexByte p = byteAt bs 10 ∧
      FieldIs lineByte ((byteAt bs 1).getLsbD 3) (byteAt bs 11) q ∧ kind.code = byteAt bs 12 ∧
      byteAt bs 13 ≠ 0 ∧ byteAt bs 13 = n := by
  have h0 : bs.getD 0 0 = 1 := h
  simp only [readKind, h0, if_true, Option.bind_eq_bind, Option.bind_eq_some_iff, Option.ite_none_left_eq_some]
  simp only [getD_eq_byteAt]
  simp [indexOf_eq_some, edgeKindOf_eq_some, optionalField_line_eq_some]

/-- Of an EDGE step's bytes 10 to 19 the alternate's counts only with its flag, and bytes 14 to 19 are reserved. -/
theorem examinedTail_edge {bs : List Byte} (h : byteAt bs 0 = 1) : examinedTail bs =
    [byteAt bs 10, if (byteAt bs 1).getLsbD 3 then byteAt bs 11 else 0, byteAt bs 12, byteAt bs 13,
      0, 0, 0, 0, 0, 0] := by
  simp only [examinedTail, List.range', List.map, examinedByte, getD_eq_byteAt, h]
  simp

theorem readKind_eq_span {bs : List Byte} (h : byteAt bs 0 = 2) (p : Line) (v : Level) (mn mx : Option Duration) :
    readKind bs = some (.span p v mn mx) ↔ indexByte p = byteAt bs 10 ∧ v.code = byteAt bs 11 ∧
      (mn ≠ some 0 ∧ FieldIs durationBytes ((byteAt bs 1).getLsbD 4) (tripleAt bs 14) mn) ∧
      mx ≠ some 0 ∧ FieldIs durationBytes ((byteAt bs 1).getLsbD 5) (tripleAt bs 17) mx := by
  simp only [readKind, getD_eq_byteAt, h]
  simp [Option.bind_eq_some_iff, indexOf_eq_some, levelOf_eq_some, optionalField_duration_eq_some]

/-- Of a SPAN step's bytes 10 to 19 each limit counts only with its flag, and bytes 12 and 13 are reserved. -/
theorem examinedTail_span {bs : List Byte} (h : byteAt bs 0 = 2) : examinedTail bs =
    [byteAt bs 10, byteAt bs 11, 0, 0] ++
      ((if (byteAt bs 1).getLsbD 4 then tripleAt bs 14 else durationBytes none) ++
      if (byteAt bs 1).getLsbD 5 then tripleAt bs 17 else durationBytes none) := by
  cases h4 : (byteAt bs 1).getLsbD 4 <;> cases h5 : (byteAt bs 1).getLsbD 5 <;>
    simp only [examinedTail, List.range', List.map, examinedByte, getD_eq_byteAt, h, h4, h5] <;>
    simp [tripleAt, durationBytes, bytesOf]

theorem readKind_eq_delay {bs : List Byte} (h : byteAt bs 0 = 3) (d : Duration) :
    readKind bs = some (.delay d) ↔ d ≠ 0 ∧ durationBytes (some d) = tripleAt bs 14 := by
  simp only [readKind, getD_eq_byteAt, h]
  simp [Option.bind_eq_some_iff, nonzero_durationAt_eq_some]

theorem examinedTail_delay {bs : List Byte} (h : byteAt bs 0 = 3) : examinedTail bs =
    [0, 0, 0, 0] ++ (tripleAt bs 14 ++ [0, 0, 0]) := by
  simp only [examinedTail, List.range', List.map, examinedByte, getD_eq_byteAt, h]
  simp [tripleAt]

theorem readKind_eq_follow {bs : List Byte} (h : byteAt bs 0 = 4) (t : Idx) (w : Wanted) :
    readKind bs = some (.follow t w) ↔ indexByte t = byteAt bs 10 ∧ w.code = byteAt bs 11 := by
  simp only [readKind, getD_eq_byteAt, h]
  simp [Option.bind_eq_some_iff, indexOf_eq_some, wantedOf_eq_some]

theorem examinedTail_follow {bs : List Byte} (h : byteAt bs 0 = 4) : examinedTail bs =
    [byteAt bs 10, byteAt bs 11, 0, 0, 0, 0, 0, 0, 0, 0] := by
  simp only [examinedTail, List.range', List.map, examinedByte, getD_eq_byteAt, h]
  simp

/-- The kind reads as what is in range and has offsets 0 and 10 to 19 and its own presence flags for its own. -/
theorem readKind_iff_bytes (bs : List Byte) (k : StepKind) :
    readKind bs = some k ↔
      k.code = byteAt bs 0 ∧ k.InRange ∧ k.FlagsFit (byteAt bs 1) ∧ k.bytes = examinedTail bs := by
  by_cases hc : k.code = byteAt bs 0
  swap
  · exact ⟨fun h => absurd (readKind_code h) hc, fun h => absurd h.1 hc⟩
  rw [and_iff_right hc]
  cases k with
  | edge p q kind n =>
    rw [readKind_eq_edge hc.symm, examinedTail_edge hc.symm]
    simp only [StepKind.InRange, StepKind.FlagsFit, StepKind.bytes, FieldIs, lineByte, List.cons.injEq,
      Option.elim_none, and_true]
    grind
  | span p v mn mx =>
    rw [readKind_eq_span hc.symm, examinedTail_span hc.symm]
    simp only [StepKind.InRange, StepKind.FlagsFit, StepKind.bytes, FieldIs, List.cons_append, List.nil_append,
      List.cons.injEq, durationBytes_append_eq]
    tauto
  | delay d =>
    rw [readKind_eq_delay hc.symm, examinedTail_delay hc.symm]
    simp [StepKind.bytes, StepKind.FlagsFit]
  | follow t w =>
    rw [readKind_eq_follow hc.symm, examinedTail_follow hc.symm]
    simp [StepKind.bytes, StepKind.FlagsFit]

/-! ### The descriptor: it reads as what is in range and has the bytes examined for its own (R202) -/

theorem readStep_eq_some (bs : List Byte) (d : StepDesc) :
    readStep bs = some d ↔ readKind bs = some d.kind ∧
      FieldIs guardBytes ((byteAt bs 1).getLsbD 0) (byteAt bs 2, byteAt bs 3) d.guard ∧
      (d.notBefore ≠ some 0 ∧
        FieldIs durationBytes ((byteAt bs 1).getLsbD 1) (tripleAt bs 4) d.notBefore) ∧
      d.notAfter ≠ some 0 ∧
        FieldIs durationBytes ((byteAt bs 1).getLsbD 2) (tripleAt bs 7) d.notAfter := by
  obtain ⟨kind, guard, nb, na⟩ := d
  rw [← optionalField_guard_eq_some]
  simp only [readStep, getD_eq_byteAt]
  simp [Option.bind_eq_some_iff, optionalField_duration_eq_some]

/-- The flag byte of a descriptor is the one examined exactly when each flag tells whether its field is there. -/
theorem flags_eq_examined {bs : List Byte} {d : StepDesc} (h : d.kind.code = byteAt bs 0) :
    d.flags = examinedByte bs 1 ↔ d.guard.isSome = (byteAt bs 1).getLsbD 0 ∧
      d.notBefore.isSome = (byteAt bs 1).getLsbD 1 ∧ d.notAfter.isSome = (byteAt bs 1).getLsbD 2 ∧
      d.kind.FlagsFit (byteAt bs 1) := by
  obtain ⟨kind, guard, nb, na⟩ := d
  rw [StepDesc.flags, flagByte_eq_iff]
  cases kind <;> simp only [StepKind.code] at h <;>
    simp only [examinedByte, getD_eq_byteAt, ← h] <;>
    simp [StepKind.FlagsFit, Fin.forall_fin_succ]

/-- Offsets 0 to 9 as they are examined: the guard and the window count only with their flags. -/
theorem examinedBytes_eq (bs : List Byte) : examinedBytes bs =
    [byteAt bs 0, examinedByte bs 1, if (byteAt bs 1).getLsbD 0 then byteAt bs 2 else 0,
      if (byteAt bs 1).getLsbD 0 then byteAt bs 3 else 0] ++
      ((if (byteAt bs 1).getLsbD 1 then tripleAt bs 4 else durationBytes none) ++
      ((if (byteAt bs 1).getLsbD 2 then tripleAt bs 7 else durationBytes none) ++ examinedTail bs)) := by
  have split : examinedBytes bs = (List.range' 0 10).map (examinedByte bs) ++ examinedTail bs := rfl
  rw [split]
  generalize examinedTail bs = tail
  cases h1 : (byteAt bs 1).getLsbD 1 <;> cases h2 : (byteAt bs 1).getLsbD 2 <;>
    simp only [List.range', List.map, examinedByte, getD_eq_byteAt, h1, h2] <;>
    simp [tripleAt, durationBytes, bytesOf]

/-- A descriptor's bytes are the bytes examined, field by field. -/
theorem bytes_eq_examined (bs : List Byte) (d : StepDesc) :
    d.bytes = examinedBytes bs ↔ d.kind.code = byteAt bs 0 ∧ d.flags = examinedByte bs 1 ∧
      guardBytes d.guard = (if (byteAt bs 1).getLsbD 0 then (byteAt bs 2, byteAt bs 3) else guardBytes none) ∧
      durationBytes d.notBefore = (if (byteAt bs 1).getLsbD 1 then tripleAt bs 4 else durationBytes none) ∧
      durationBytes d.notAfter = (if (byteAt bs 1).getLsbD 2 then tripleAt bs 7 else durationBytes none) ∧
      d.kind.bytes = examinedTail bs := by
  rw [examinedBytes_eq, StepDesc.bytes]
  cases (byteAt bs 1).getLsbD 0 <;>
    simp [durationBytes_append_eq, guardBytes, and_assoc]

/-- A descriptor's bytes and its reading determine each other, on the bytes that are examined. -/
theorem readStep_iff_bytes (bs : List Byte) (d : StepDesc) :
    readStep bs = some d ↔ d.InRange ∧ d.bytes = examinedBytes bs := by
  rw [readStep_eq_some, bytes_eq_examined, readKind_iff_bytes]
  constructor
  · rintro ⟨⟨hcode, hkind, hfit, hbytes⟩, ⟨hg, hgb⟩, ⟨hnb0, hnb, hnbb⟩, hna0, hna, hnab⟩
    have hflags := (flags_eq_examined hcode).2 ⟨hg, hnb, hna, hfit⟩
    exact ⟨⟨hkind, hnb0, hna0⟩, hcode, hflags, hgb, hnbb, hnab, hbytes⟩
  · rintro ⟨⟨hkind, hnb0, hna0⟩, hcode, hflags, hgb, hnbb, hnab, hbytes⟩
    obtain ⟨hg, hnb, hna, hfit⟩ := (flags_eq_examined hcode).1 hflags
    exact ⟨⟨hcode, hkind, hfit, hbytes⟩, ⟨hg, hgb⟩, ⟨hnb0, hnb, hnbb⟩, hna0, hna, hnab⟩

theorem FieldIs.self {α β : Type} (code : Option α → β) {flag : Bool} {o : Option α} (h : flag = o.isSome) :
    FieldIs code flag (code o) o := by
  cases o <;> simp [FieldIs, h]

/-- The kind of a stored step is read back from its bytes: each of its flags tells whether that field is there. -/
theorem readKind_bytes {d : StepDesc} (h : d.kind.InRange) : readKind d.bytes = some d.kind := by
  obtain ⟨kind, guard, nb, na⟩ := d
  cases kind with
  | edge p q kind n =>
    exact (readKind_eq_edge rfl p q kind n).2 ⟨rfl, .self lineByte (flagByte_getLsbD _ (by decide)), rfl, h, rfl⟩
  | span p v mn mx =>
    obtain ⟨hmn, hmx⟩ := h
    exact (readKind_eq_span rfl p v mn mx).2 ⟨rfl, rfl, ⟨hmn, .self durationBytes (flagByte_getLsbD _ (by decide))⟩,
      hmx, .self durationBytes (flagByte_getLsbD _ (by decide))⟩
  | delay d => exact (readKind_eq_delay rfl d).2 ⟨h, rfl⟩
  | follow t w => exact (readKind_eq_follow rfl t w).2 ⟨rfl, rfl⟩

theorem readStep_bytes {d : StepDesc} (h : d.InRange) : readStep d.bytes = some d := by
  obtain ⟨hkind, hnb, hna⟩ := h
  exact (readStep_eq_some d.bytes d).2 ⟨readKind_bytes hkind, .self guardBytes (flagByte_getLsbD _ (by decide)),
    ⟨hnb, .self durationBytes (flagByte_getLsbD _ (by decide))⟩,
    hna, .self durationBytes (flagByte_getLsbD _ (by decide))⟩

/-! ### The action (R203) -/

/-- Two bytes read as an action exactly when they are its bytes. -/
theorem readAction_eq_some (k o : Byte) (a : Action) : readAction k o = some a ↔ a.bytes = [k, o] := by
  constructor
  · intro h
    unfold readAction at h
    split_ifs at h with h1 h0
    · cases h
      simp [Action.bytes, h1, h0]
    all_goals
      obtain ⟨i, hi, rfl⟩ := Option.map_eq_some_iff.1 h
      rw [indexOf_eq_some (by decide)] at hi
      simp [Action.bytes, *]
  · intro h
    cases a <;> obtain ⟨rfl, rfl⟩ : _ ∧ _ := by simpa [Action.bytes] using h
    all_goals simp [readAction, indexOf_eq_some]

/-- Settles O5: a descriptor is what its examined bytes say (`readStep_iff_bytes`), and is read back from its own. -/
theorem definitionRoundTrip : Obligations.DefinitionRoundTrip := by
  refine ⟨fun d h => ⟨readStep_bytes h, ?_⟩, fun bytes d h => (readStep_iff_bytes bytes d).1 h, ?_, ?_, ?_⟩
  · cases hk : d.kind <;> simp [StepDesc.bytes, StepKind.bytes, durationBytes, bytesOf, hk]
  · intro bytes bytes' h
    exact Option.ext fun d => by rw [readStep_iff_bytes, readStep_iff_bytes, h]
  · intro a
    obtain ⟨k, o, h⟩ : ∃ k o, a.bytes = [k, o] := by cases a <;> exact ⟨_, _, rfl⟩
    exact ⟨k, o, h, (readAction_eq_some k o a).2 h⟩
  · exact fun k o a => (readAction_eq_some k o a).1

/-! ### The engine that has served a port -/

/-- The engine with the port as the one last served (R191). -/
def Engine.served (e : Engine) (p : Port) : Engine := { e with lastServed := p }

@[simp] theorem Engine.served_watch (e : Engine) (p : Port) (i : Idx) : (e.served p).watch i = e.watch i := rfl
@[simp] theorem Engine.served_table (e : Engine) (p : Port) : (e.served p).table = e.table := rfl
@[simp] theorem Engine.served_freeSlots (e : Engine) (p : Port) : (e.served p).freeSlots = e.freeSlots := rfl
@[simp] theorem Engine.served_modify (e : Engine) (p : Port) (i : Idx) (f : Watch → Watch) :
    (e.served p).modify i f = (e.modify i f).served p := rfl

/-- A change of a record matters only at the record it changes. -/
theorem Engine.modify_congr {e : Engine} {i : Idx} {f g : Watch → Watch} (h : f (e.watch i) = g (e.watch i)) :
    e.modify i f = e.modify i g :=
  congrArg (fun w => e.withTable (e.table.setWatch i w)) h

/-! ### Commands on a watch of the port (R28) -/

/-- A command the arbiter passes, on a watch of the port in a state it is taken from, has its own effect on the engine
and completes with its response. -/
theorem exec_onWatch {s : State} {p : Port} {c : Instr} {b : Byte} {i : Idx} {states : List WState}
    {takenFrom : WState → Bool} {k : Engine → Idx → Engine × Response} (ho : Offered s p c)
    (hn : Names s p b i states) (ht : ∀ st ∈ states, takenFrom st = true ∧ st ≠ .free)
    (hc : exec c s = atEngine p c s (onEngine fun e => onWatch e p b true takenFrom (k e))) {e : Engine}
    {r : Response} (hk : k (s.engine.served p) i = (e.served p, r)) : exec c s = .next (s.engineAnswers p e r) := by
  obtain ⟨hb, howner, hstate⟩ := hn
  obtain ⟨htaken, hfree⟩ := ht _ hstate
  rw [hc]
  exact atEngine_answers ho e ((onWatch_named (e := s.engine.served p) hb hfree howner htaken true _).trans hk)

theorem isDraft_draft : ∀ st ∈ [WState.draft], isDraft st = true ∧ st ≠ .free := by decide

/-- Settles O8: the checks of R29 in their order, and the append. -/
theorem addStepAppends : Obligations.AddStepAppends := by
  intro p b desc i s ho hn
  have run {e : Engine} {r : Response} := exec_onWatch ho hn isDraft_draft rfl (e := e) (r := r)
  refine ⟨fun hlen => run ?_, fun hlen hread => run ?_,
    fun d hlen hread => ⟨fun hnone => run ?_, fun hfree => run ?_⟩⟩
  · simp [Config.stepLimit, hlen]
  · simp [Config.stepLimit, Nat.not_le.2 hlen, hread]
  · simp [Config.stepLimit, Nat.not_le.2 hlen, hread, hnone]
  · simp only [Config.stepLimit, Engine.served_watch, Engine.served_freeSlots, Nat.not_le.2 hlen, hread, hfree,
      if_false]
    rfl

/-- Settles O9: the last step goes and its slot returns (R32). -/
theorem dropStepRemovesLast : Obligations.DropStepRemovesLast := by
  intro p b i s ho hn
  have run {e : Engine} {r : Response} := exec_onWatch ho hn isDraft_draft rfl (e := e) (r := r)
  refine ⟨fun hnil => run ?_, fun d front hsteps => run ?_⟩
  · simp [hnil]
  · have hdrop : s.engine.modify i (fun w => { w with steps := w.steps.dropLast }) =
        s.engine.modify i fun w => { w with steps := front } := Engine.modify_congr (by simp [hsteps])
    have hne : ¬(s.engine.watch i).steps.length = 0 := by simp [hsteps]
    have hlen : (s.engine.watch i).steps.length - 1 = front.length := by simp [hsteps]
    simp only [Engine.served_watch, Engine.served_modify, hdrop, hlen, if_neg hne]
    rfl

/-! ### SET_ACTIONS and SET_OPTIONS (R34, R35) -/

/-- The counted actions are read in order, each from its own two bytes. -/
theorem readActions_eq_some (n : Nat) (acts : List (Byte × Byte)) (list : List Action) :
    readActions n acts = some list ↔ (acts.take n).map (fun a => readAction a.1 a.2) = list.map some := by
  unfold readActions
  induction acts.take n generalizing list with
  | nil => cases list <;> simp
  | cons a as ih => cases list <;> simp [List.mapM_cons, Option.bind_eq_some_iff, ih]

/-- One action out of range refuses them all. -/
theorem readActions_eq_none {n : Nat} {acts : List (Byte × Byte)} {a : Byte × Byte} (ha : a ∈ acts.take n)
    (h : readAction a.1 a.2 = none) : readActions n acts = none := by
  refine Option.eq_none_iff_forall_ne_some.2 fun list hl => ?_
  have hmem : none ∈ list.map some := by
    rw [← (readActions_eq_some n acts list).1 hl]
    exact List.mem_map.2 ⟨a, ha, h⟩
  simp at hmem

theorem repeatOf_code (r : Repeat) : repeatOf r.code = some r := by cases r <;> rfl

theorem routeOf_code (t : Route) : routeOf t.code = some t := by cases t <;> rfl

theorem groupOf_code (g : Option Group) : groupOf (groupCode g) = some g := by
  cases g with
  | none => rfl
  | some g => revert g; decide

theorem repeatOf_eq_none {b : Byte} (h : 1 < b.toNat) : repeatOf b = none := by
  have h0 : b ≠ 0 := by rintro rfl; exact absurd h (by decide)
  have h1 : b ≠ 1 := by rintro rfl; exact absurd h (by decide)
  rw [repeatOf, if_neg h0, if_neg h1]

theorem routeOf_eq_none {b : Byte} (h : 3 < b.toNat) : routeOf b = none := by
  have hne : ∀ x : Byte, x.toNat ≤ 3 → b ≠ x := by rintro x hx rfl; omega
  simp [routeOf, hne]

theorem groupOf_eq_none {b : Byte} (h : 7 < b.toNat) (hff : b ≠ 0xFF) : groupOf b = none := by
  have : ¬b.toNat < 8 := by omega
  rw [groupOf, if_neg hff, indexOf, dif_neg this, Option.map_none]

/-- Settles O10: the operand checks of R34 and R35, and the replacement of the list or of the three options. -/
theorem setActionsAndOptionsReplace : Obligations.SetActionsAndOptionsReplace := by
  refine ⟨fun p b side count acts i s ho hn => ?_, fun p b rep group route i s ho hn => ?_⟩
  · have run {e : Engine} {r : Response} := exec_onWatch ho hn isDraft_draft rfl (e := e) (r := r)
    refine ⟨fun hbad => run ?_, fun list hcount hlist => ⟨?_, ?_⟩⟩
    · rcases hbad with ⟨h1, h2⟩ | hcount | ⟨a, ha, hnone⟩
      · exact if_pos (by rw [decide_eq_true h1, decide_eq_true h2]; rfl)
      · simp [Config.actionLimit, hcount]
      · simp [readActions_eq_none ha hnone]
    all_goals
      rintro rfl
      refine run ?_
      simp [Config.actionLimit, Nat.not_lt.2 hcount, (readActions_eq_some _ _ _).2 hlist]
  · have run {e : Engine} {r : Response} := exec_onWatch ho hn isDraft_draft rfl (e := e) (r := r)
    refine ⟨fun hbad => run ?_, ?_⟩
    · rcases hbad with hrep | ⟨hgroup, hff⟩ | hroute
      · simp [repeatOf_eq_none hrep]
      · simp [groupOf_eq_none hgroup hff]
      · simp [routeOf_eq_none hroute]
    · rintro r g t rfl rfl rfl
      exact run (by simp [repeatOf_code, groupOf_code, routeOf_code])

/-! ### REOPEN, ACK and READ_POOL (R41, R42, R97) -/

/-- Settles O12: each command writes the state of its watch and nothing else. -/
theorem reopenAndAckReturn : Obligations.ReopenAndAckReturn := by
  intro p b i s
  exact ⟨fun ho hn => exec_onWatch ho hn (by decide) rfl rfl, fun ho hn => exec_onWatch ho hn (by decide) rfl rfl⟩

/-- The number of FREE indices, counted over the set of all of them. -/
theorem Table.freeCount_eq_card (T : Table) :
    T.freeCount = (Finset.univ.filter fun i : Idx => (T.watch i).state = .free).card := by
  rw [Table.freeCount, allWatches, List.countP_eq_length_filter]
  rfl

/-- Settles O16: the response is made from the engine, which stays as it is. -/
theorem readPoolAnswers : Obligations.ReadPoolAnswers := by
  intro p s ho
  refine atEngine_answers ho s.engine ?_
  rw [Table.freeCount_eq_card]
  rfl

/-! ### The faults of a step and of an action (R37, R38) -/

open Classical in
/-- The relations within a descriptor in the order of R37, as propositions. -/
theorem stepFault_eq (d : StepDesc) : stepFault d =
    if LinesDiffer d then
      if GuardApart d then
        if NoWindowOnDelay d then
          if InOrder d.notBefore d.notAfter then
            if SpanInOrder d then none else some .spanOrder
          else some .windowOrder
        else some .windowOnDelay
      else some .guardConflict
    else some .sameLines := by
  rw [← ite_not (LinesDiffer d), ← ite_not (GuardApart d), ← ite_not (NoWindowOnDelay d), ← ite_not (InOrder _ _),
    ← ite_not (SpanInOrder d)]
  refine if_congr ?_ rfl (if_congr ?_ rfl (if_congr ?_ rfl (if_congr ?_ rfl (if_congr ?_ rfl rfl))))
  · rcases hk : d.kind with ⟨p, _ | q, kind, n⟩ | _ | _ | _ <;> simp [LinesDiffer, hk]
  · cases hg : d.guard <;> simp [GuardApart, hg]
  · cases hk : d.kind <;> cases hb : d.notBefore <;> cases ha : d.notAfter <;> simp [NoWindowOnDelay, hk, hb, ha]
  · cases hb : d.notBefore <;> cases ha : d.notAfter <;> simp [InOrder]
  · rcases hk : d.kind with _ | ⟨p, v, _ | mn, _ | mx⟩ | _ | _ <;> simp [SpanInOrder, InOrder, hk]

theorem targetFault_eq_some (T : Table) (i x : Idx) (f : SealFault) : targetFault T i x = some f ↔
    x = i ∧ f = .selfTarget ∨ x ≠ i ∧ ¬TargetSound T i x ∧ f = .foreignTarget := by
  unfold targetFault TargetSound
  split_ifs with hx hs <;> grind

/-- A target is examined only where every relation of R37 holds (R36). -/
theorem sealStep_eq (T : Table) (i : Idx) (d : StepDesc) :
    sealStep T i d = (stepFault d).or (d.target.bind (targetFault T i)) := by
  unfold sealStep StepDesc.target
  cases d.kind <;> rfl

/-- A step with a target is a FOLLOW step: it has no window on a delay and no span limits. -/
theorem noWindow_spanInOrder_of_target {d : StepDesc} {x : Idx} (h : d.target = some x) :
    NoWindowOnDelay d ∧ SpanInOrder d := by
  unfold StepDesc.target at h
  cases hk : d.kind <;> simp_all [NoWindowOnDelay, SpanInOrder]

theorem stepFaulty_iff (T : Table) (i : Idx) (d : StepDesc) (code : Byte) :
    StepFaulty T i d code ↔ ∃ f, sealStep T i d = some f ∧ f.code = code := by
  rw [sealStep_eq, stepFault_eq]
  constructor
  · intro h
    cases h with
    | sameLines h1 => exact ⟨.sameLines, by rw [if_neg h1]; rfl, rfl⟩
    | guardConflict h1 h2 => exact ⟨.guardConflict, by rw [if_pos h1, if_neg h2]; rfl, rfl⟩
    | windowOnDelay h1 h2 h3 => exact ⟨.windowOnDelay, by rw [if_pos h1, if_pos h2, if_neg h3]; rfl, rfl⟩
    | windowOrder h1 h2 h3 h4 => exact ⟨.windowOrder, by rw [if_pos h1, if_pos h2, if_pos h3, if_neg h4]; rfl, rfl⟩
    | spanOrder h1 h2 h3 h4 h5 =>
      exact ⟨.spanOrder, by rw [if_pos h1, if_pos h2, if_pos h3, if_pos h4, if_neg h5]; rfl, rfl⟩
    | selfTarget ht h1 h2 h4 =>
      obtain ⟨h3, h5⟩ := noWindow_spanInOrder_of_target ht
      rw [if_pos h1, if_pos h2, if_pos h3, if_pos h4, if_pos h5, ht]
      exact ⟨.selfTarget, (targetFault_eq_some ..).2 (.inl ⟨rfl, rfl⟩), rfl⟩
    | foreignTarget x ht hx hs h1 h2 h4 =>
      obtain ⟨h3, h5⟩ := noWindow_spanInOrder_of_target ht
      rw [if_pos h1, if_pos h2, if_pos h3, if_pos h4, if_pos h5, ht]
      exact ⟨.foreignTarget, (targetFault_eq_some ..).2 (.inr ⟨hx, hs, rfl⟩), rfl⟩
  · rintro ⟨f, h, rfl⟩
    split_ifs at h with h1 h2 h3 h4 h5
    · obtain ⟨x, ht, hx⟩ := Option.bind_eq_some_iff.1 h
      obtain ⟨rfl, rfl⟩ | ⟨hne, hs, rfl⟩ := (targetFault_eq_some ..).1 hx
      · exact .selfTarget ht h1 h2 h4
      · exact .foreignTarget x ht hne hs h1 h2 h4
    all_goals obtain rfl := Option.some.inj h
    · exact .spanOrder h1 h2 h3 h4 h5
    · exact .windowOrder h1 h2 h3 h4
    · exact .windowOnDelay h1 h2 h3
    · exact .guardConflict h1 h2
    · exact .sameLines h1

theorem actionFaulty_iff (T : Table) (i : Idx) (a : Action) (code : Byte) :
    ActionFaulty T i a code ↔ ∃ f, sealAction T i a = some f ∧ f.code = code := by
  constructor
  · intro h
    cases h with
    | armSelf | cancelSelf => exact ⟨.selfTarget, (targetFault_eq_some ..).2 (.inl ⟨rfl, rfl⟩), rfl⟩
    | armForeign x hx hs | cancelForeign x hx hs =>
      exact ⟨.foreignTarget, (targetFault_eq_some ..).2 (.inr ⟨hx, hs, rfl⟩), rfl⟩
  · rintro ⟨f, h, rfl⟩
    cases a with
    | arm x =>
      obtain ⟨rfl, rfl⟩ | ⟨hx, hs, rfl⟩ := (targetFault_eq_some ..).1 h
      · exact .armSelf
      · exact .armForeign x hx hs
    | cancel x =>
      obtain ⟨rfl, rfl⟩ | ⟨hx, hs, rfl⟩ := (targetFault_eq_some ..).1 h
      · exact .cancelSelf
      · exact .cancelForeign x hx hs
    | _ => cases h

/-! ### The examination (R36) -/

theorem firstFault_eq_none {α : Type} (check : α → Option SealFault) (k : Nat) (xs : List α) :
    firstFault check k xs = none ↔ ∀ x ∈ xs, check x = none := by
  induction xs generalizing k with
  | nil => simp [firstFault]
  | cons x xs ih => cases h : check x <;> simp [firstFault, h, ih]

/-- The first fault of a list is that of its first faulty item, at its position. -/
theorem firstFault_eq_some {α : Type} (check : α → Option SealFault) (k m : Nat) (xs : List α) (f : SealFault) :
    firstFault check k xs = some (f, m) ↔ ∃ n x, m = k + n ∧ xs[n]? = some x ∧
      (∀ j y, j < n → xs[j]? = some y → check y = none) ∧ check x = some f := by
  induction xs generalizing k with
  | nil => simp [firstFault]
  | cons x xs ih =>
    have shift (n : Nat) : (∀ j y, j < n + 1 → (x :: xs)[j]? = some y → check y = none) ↔
        check x = none ∧ ∀ j y, j < n → xs[j]? = some y → check y = none := by
      constructor
      · exact fun h => ⟨h 0 x (by omega) rfl, fun j y hj hy => h (j + 1) y (by omega) hy⟩
      · rintro ⟨hx, hxs⟩ (_ | j) y hj hy
        · cases hy
          exact hx
        · exact hxs j y (by omega) hy
    rw [firstFault, ← Nat.or_exists_add_one]
    simp only [shift]
    cases h : check x with
    | some g => simp [h, and_comm, eq_comm (a := m)]
    | none => simp [h, ih, Nat.add_assoc, Nat.add_comm 1]

section
variable {α : Type} {check : α → Option SealFault} {Faulty : α → Byte → Prop}
  (hcheck : ∀ x b, Faulty x b ↔ ∃ f, check x = some f ∧ f.code = b)
include hcheck

theorem check_eq_none_iff (x : α) : check x = none ↔ ∀ b, ¬Faulty x b := by
  simp only [hcheck]
  cases check x <;> simp

theorem firstFault_eq_none_iff (xs : List α) :
    firstFault check 0 xs = none ↔ ∀ x ∈ xs, ∀ b, ¬Faulty x b := by
  simp only [firstFault_eq_none, check_eq_none_iff hcheck]

theorem firstFault_eq_some_iff (xs : List α) (n : Nat) (code : Byte) :
    (∃ f, firstFault check 0 xs = some (f, n) ∧ f.code = code) ↔
      ∃ x, xs[n]? = some x ∧ (∀ j y b, j < n → xs[j]? = some y → ¬Faulty y b) ∧ Faulty x code := by
  simp only [firstFault_eq_some, check_eq_none_iff hcheck, hcheck]
  constructor
  · rintro ⟨f, ⟨_, x, hn, hx, hbefore, hf⟩, hcode⟩
    obtain rfl : n = _ := hn.trans (Nat.zero_add _)
    exact ⟨x, hx, fun j y b hj hy => hbefore j y hj hy b, f, hf, hcode⟩
  · rintro ⟨x, hx, hbefore, f, hf, hcode⟩
    exact ⟨f, ⟨n, x, (Nat.zero_add n).symm, hx, fun j y hj hy b => hbefore j y b hj hy, hf⟩, hcode⟩

end

/-- The examination finds what the claims say it finds first. -/
theorem sealFinds_iff (T : Table) (i : Idx) (code list : Byte) (pos : Nat) :
    SealFinds T i code list pos ↔ ∃ f, examine T i = some (f, list, pos) ∧ f.code = code := by
  have steps := firstFault_eq_some_iff (stepFaulty_iff T i) (T.watch i).steps
  have met := firstFault_eq_some_iff (actionFaulty_iff T i) (T.watch i).metActions
  have fail := firstFault_eq_some_iff (actionFaulty_iff T i) (T.watch i).failActions
  have nosteps := firstFault_eq_none_iff (stepFaulty_iff T i) (T.watch i).steps
  have nomet := firstFault_eq_none_iff (actionFaulty_iff T i) (T.watch i).metActions
  constructor
  · intro h
    cases h with
    | noSteps h => exact ⟨.noSteps, by simp [examine, h], rfl⟩
    | cyclicFirstFollow h hrep hfollow => exact ⟨.cyclicFirstFollow, by simp [examine, h, hrep, hfollow], rfl⟩
    | step _ d _ hcyc hd hbefore hfault =>
      have hne : (T.watch i).steps ≠ [] := by rintro h; simp [h] at hd
      obtain ⟨f, hf, hcode⟩ := (steps pos code).2 ⟨d, hd, hbefore, hfault⟩
      exact ⟨f, by simp [examine, hne, hcyc, hf], hcode⟩
    | metAction _ a _ hne hcyc hsteps ha hbefore hfault =>
      obtain ⟨f, hf, hcode⟩ := (met pos code).2 ⟨a, ha, hbefore, hfault⟩
      exact ⟨f, by simp [examine, hne, hcyc, nosteps.2 hsteps, hf], hcode⟩
    | failAction _ a _ hne hcyc hsteps hmet ha hbefore hfault =>
      obtain ⟨f, hf, hcode⟩ := (fail pos code).2 ⟨a, ha, hbefore, hfault⟩
      exact ⟨f, by simp [examine, hne, hcyc, nosteps.2 hsteps, nomet.2 hmet, hf], hcode⟩
  · rintro ⟨f, h, rfl⟩
    simp only [examine] at h
    split_ifs at h with hnil hcyc
    · cases h
      exact .noSteps hnil
    · cases h
      obtain ⟨hrep, hfollow⟩ : (T.watch i).rep = .cyclic ∧ (T.watch i).firstIsFollow = true := by simpa using hcyc
      exact .cyclicFirstFollow hnil hrep hfollow
    have hcyc' : ¬((T.watch i).rep = .cyclic ∧ (T.watch i).firstIsFollow = true) := by simpa using hcyc
    cases hs : firstFault (sealStep T i) 0 (T.watch i).steps with
    | some x =>
      obtain ⟨rfl, rfl, rfl⟩ : x.1 = f ∧ 1 = list ∧ x.2 = pos := by simpa [hs] using h
      obtain ⟨d, hd, hbefore, hfault⟩ := (steps _ _).1 ⟨_, hs, rfl⟩
      exact .step _ d _ hcyc' hd hbefore hfault
    | none =>
      cases hm : firstFault (sealAction T i) 0 (T.watch i).metActions with
      | some x =>
        obtain ⟨rfl, rfl, rfl⟩ : x.1 = f ∧ 2 = list ∧ x.2 = pos := by simpa [hs, hm] using h
        obtain ⟨a, ha, hbefore, hfault⟩ := (met _ _).1 ⟨_, hm, rfl⟩
        exact .metAction _ a _ hnil hcyc' (nosteps.1 hs) ha hbefore hfault
      | none =>
        obtain ⟨hk, rfl⟩ : firstFault (sealAction T i) 0 (T.watch i).failActions = some (f, pos) ∧ 3 = list := by
          simpa [hs, hm] using h
        obtain ⟨a, ha, hbefore, hfault⟩ := (fail _ _).1 ⟨_, hk, rfl⟩
        exact .failAction _ a _ hnil hcyc' (nosteps.1 hs) (nomet.1 hm) ha hbefore hfault

/-- Settles O11: SEAL answers what the examination finds (R36, R39). -/
theorem sealExamines : Obligations.SealExamines := by
  intro p b i s ho hn
  have run {e : Engine} {r : Response} := exec_onWatch ho hn isDraft_draft rfl (e := e) (r := r)
  refine ⟨fun code list pos hfinds => run ?_, fun hsound => run ?_⟩
  · obtain ⟨f, hf, rfl⟩ := (sealFinds_iff ..).1 hfinds
    simp [hf]
  · have hnone : examine s.engine.table i = none := by
      refine Option.eq_none_iff_forall_ne_some.2 fun ⟨f, list, pos⟩ h => ?_
      exact hsound f.code list pos ((sealFinds_iff ..).2 ⟨f, h, rfl⟩)
    simp [hnone]

end Sys2Proof.Machine

/-! PROOFS. Conclusion, actions and chains: what a cascade leaves alone of a watch that rests, that the nesting of its
conclusions is bounded (O19), the record of a conclusion after its cascade (O20, O23) and the eight actions (O21). -/

namespace Sys2Proof.Machine

open Sys2Proof

/-! ### A watch that rests while others change (R5, R79) -/

/-- Watch `j` rests from `T` to `T'`: its record stays, but for its skipped count where it is in `A`, and it enters no
list. -/
structure Rests (A : Set Idx) (T T' : Table) (j : Idx) : Prop where
  record : T'.watch j = { T.watch j with skipped := (T'.watch j).skipped }
  skipped : j ∉ A → (T'.watch j).skipped = (T.watch j).skipped
  listeners : ∀ l, ∀ x ∈ T'.listenersOf l, x.watch = j → x ∈ T.listenersOf l
  followers : ∀ t, j ∈ T'.followersOf t → j ∈ T.followersOf t
  deadlines : ∀ d ∈ T'.deadlines, d.watch = j → d ∈ T.deadlines

namespace Rests

variable {A B : Set Idx} {T T' T'' : Table} {j : Idx}

theorem refl (A : Set Idx) (T : Table) (j : Idx) : Rests A T T j :=
  ⟨rfl, fun _ => rfl, fun _ _ h _ => h, fun _ h => h, fun _ h _ => h⟩

theorem trans (h : Rests A T T' j) (k : Rests A T' T'' j) : Rests A T T'' j where
  record := by rw [k.record, h.record]
  skipped hj := (k.skipped hj).trans (h.skipped hj)
  listeners l x hx e := h.listeners l x (k.listeners l x hx e) e
  followers t ht := h.followers t (k.followers t ht)
  deadlines d hd e := h.deadlines d (k.deadlines d hd e) e

/-- Only the watches in `A` that are skipped matter. -/
theorem mono (h : Rests A T T' j) (hj : j ∈ A → j ∈ B) : Rests B T T' j :=
  ⟨h.record, fun hb => h.skipped (mt hj hb), h.listeners, h.followers, h.deadlines⟩

theorem state (h : Rests A T T' j) : (T'.watch j).state = (T.watch j).state := by rw [h.record]

theorem rep (h : Rests A T T' j) : (T'.watch j).rep = (T.watch j).rep := by rw [h.record]

/-- A watch whose actions are not counted as skipped keeps its whole record. -/
theorem watch_eq (h : Rests A T T' j) (hj : j ∉ A) : T'.watch j = T.watch j := by rw [h.record, h.skipped hj]

/-- A watch whose record stays rests if it enters no list. -/
theorem of_watch_eq (hw : T'.watch j = T.watch j)
    (hl : ∀ l, ∀ x ∈ T'.listenersOf l, x.watch = j → x ∈ T.listenersOf l)
    (hf : ∀ t, j ∈ T'.followersOf t → j ∈ T.followersOf t)
    (hd : ∀ d ∈ T'.deadlines, d.watch = j → d ∈ T.deadlines) : Rests A T T' j :=
  ⟨by rw [hw], fun _ => by rw [hw], hl, hf, hd⟩

/-- A request on one of the paths moves no watch. -/
theorem sendOut (r : OutReq) : Rests A T (T.sendOut r) j :=
  ⟨rfl, fun _ => rfl, fun _ _ h _ => h, fun _ h => h, fun _ h _ => h⟩

theorem sendNotice (r : NoticeReq) : Rests A T (T.sendNotice r) j :=
  ⟨rfl, fun _ => rfl, fun _ _ h _ => h, fun _ h => h, fun _ h _ => h⟩

/-- Counting a skipped action moves no watch either (R82). -/
theorem skipAction {w : Idx} (hw : w ∈ A) : Rests A T (skipAction T w) j := by
  refine ⟨?_, fun hj => ?_, fun _ _ h _ => h, fun _ h => h, fun _ h _ => h⟩
  · rw [Machine.skipAction, Table.watch_modify]
    split <;> simp_all
  · have hne : j ≠ w := fun e => hj (e ▸ hw)
    rw [Machine.skipAction, Table.watch_modify_ne _ _ hne]

end Rests

/-- A watch leaves its listener lists and the list of the target it follows (R58, R103). -/
def Table.leaveLists (T : Table) (i : Idx) : Table :=
  match (T.watch i).followTarget with
  | some t => (T.leaveLines i).unfollow t i
  | none => T.leaveLines i

@[simp] theorem Table.watch_leaveLists (T : Table) (i j : Idx) : (T.leaveLists i).watch j = T.watch j := by
  unfold Table.leaveLists
  split <;> rfl

/-- A step end and a release begin by leaving those lists. -/
theorem endStep_eq (T : Table) (i : Idx) : endStep T i = (T.leaveLists i).dropDeadline i := rfl

theorem releaseWatch_eq (rec : Concluder) (c : Ctx) (T : Table) (i : Idx) : releaseWatch rec c T i =
    beginStep rec c ((T.leaveLists i).modify i Watch.releasedNow) i (T.watch i).current c.now := rfl

@[simp] theorem watch_endStep (T : Table) (i j : Idx) : (endStep T i).watch j = T.watch j :=
  Table.watch_leaveLists T i j

/-- Everything but watch `i` rests. -/
def Changes (i : Idx) (T T' : Table) : Prop := ∀ j, j ≠ i → Rests ∅ T T' j

namespace Changes

variable {i : Idx} {T T' T'' : Table}

theorem trans (h : Changes i T T') (k : Changes i T' T'') : Changes i T T'' := fun j hj => (h j hj).trans (k j hj)

theorem modify (T : Table) (i : Idx) (f : Watch → Watch) : Changes i T (T.modify i f) := fun _ hj =>
  .of_watch_eq (T.watch_modify_ne f hj) (fun _ _ h _ => h) (fun _ h => h) fun _ h _ => h

theorem join (T : Table) (l : Line) (i : Idx) (r : Role) : Changes i T (T.join l i r) := fun j hj => by
  refine .of_watch_eq rfl (fun m x hx e => ?_) (fun _ h => h) fun _ h _ => h
  rw [Table.listenersOf_join, List.mem_append] at hx
  refine hx.resolve_right fun hx => hj ?_
  split at hx
  · rw [← e, List.mem_singleton.1 hx]
  · cases hx

theorem leaveLines (T : Table) (i : Idx) : Changes i T (T.leaveLines i) := fun _ _ =>
  .of_watch_eq rfl (fun _ _ h _ => List.mem_of_mem_filter (Table.listenersOf_leaveLines .. ▸ h)) (fun _ h => h)
    fun _ h _ => h

theorem follow (T : Table) (t i : Idx) : Changes i T (T.follow t i) := fun j hj => by
  refine .of_watch_eq rfl (fun _ _ h _ => h) (fun x hx => ?_) fun _ h _ => h
  rw [Table.followersOf_follow, List.mem_append] at hx
  refine hx.resolve_right fun hx => hj ?_
  split at hx
  · exact List.mem_singleton.1 hx
  · cases hx

theorem unfollow (T : Table) (t i : Idx) : Changes i T (T.unfollow t i) := fun _ _ => by
  refine .of_watch_eq rfl (fun _ _ h _ => h) (fun x hx => ?_) fun _ h _ => h
  rw [Table.followersOf_unfollow] at hx
  split at hx
  · exact List.mem_of_mem_filter hx
  · exact hx

theorem addDeadline (T : Table) (now : Time) (i : Idx) (due : Time) (k : DeadlineKind) :
    Changes i T (T.addDeadline now i due k) := fun j hj => by
  refine .of_watch_eq rfl (fun _ _ h _ => h) (fun _ h => h) fun d hd e => ?_
  refine ((mem_insertDeadline ..).1 hd).resolve_left fun hx => hj ?_
  rw [← e, hx]

theorem dropDeadline (T : Table) (i : Idx) : Changes i T (T.dropDeadline i) := fun _ _ =>
  .of_watch_eq rfl (fun _ _ h _ => h) (fun _ h => h) fun _ h _ => List.mem_of_mem_filter h

theorem leaveLists (T : Table) (i : Idx) : Changes i T (T.leaveLists i) := by
  unfold Table.leaveLists
  split
  · exact (leaveLines T i).trans (unfollow _ _ i)
  · exact leaveLines T i

theorem endStep (T : Table) (i : Idx) : Changes i T (endStep T i) :=
  endStep_eq T i ▸ (leaveLists T i).trans (dropDeadline _ i)

theorem holdWatch (T : Table) (i : Idx) : Changes i T (holdWatch T i) := (modify T i _).trans (dropDeadline _ i)

theorem addWindow (c : Ctx) (T : Table) (i : Idx) (d : StepDesc) (t : Time) : Changes i T (addWindow c T i d t) := by
  unfold Machine.addWindow
  split
  · exact fun j _ => .refl ∅ T j
  · exact addDeadline _ _ i _ _
  · exact fun j _ => .refl ∅ T j

end Changes

/-- Every CONCLUDED watch rests (R79): no cascade moves it, but to count the skipped actions of those in `A`. -/
def Stays (A : Set Idx) (T T' : Table) : Prop := ∀ j, (T.watch j).state = .concluded → Rests A T T' j

namespace Stays

variable {A B : Set Idx} {T T' T'' : Table} {i : Idx}

theorem refl (A : Set Idx) (T : Table) : Stays A T T := fun j _ => .refl A T j

theorem trans (h : Stays A T T') (k : Stays A T' T'') : Stays A T T'' := fun j hj =>
  (h j hj).trans (k j ((h j hj).state.trans hj))

theorem mono (h : Stays ∅ T T') : Stays A T T' := fun j hj => (h j hj).mono fun e => e.elim

/-- A change of a watch that is not CONCLUDED. -/
theorem change (h : Stays A T T') (hi : (T.watch i).state ≠ .concluded) (k : Changes i T' T'') : Stays A T T'' :=
  fun j hj => (h j hj).trans ((k j fun e => hi (e ▸ hj)).mono fun e => e.elim)

/-- A count of skipped actions of a watch that was not CONCLUDED does not show in one that was. -/
theorem narrow (h : Stays {i} T T') (hi : (T.watch i).state ≠ .concluded) : Stays ∅ T T' := fun j hj =>
  (h j hj).mono fun e => absurd hj (Set.mem_singleton_iff.1 e ▸ hi)

end Stays

theorem Changes.stays {i : Idx} {T T' : Table} (h : Changes i T T') (A : Set Idx)
    (hi : (T.watch i).state ≠ .concluded) : Stays A T T' :=
  (Stays.refl A T).change hi h

theorem Watch.live_of_runs {w : Watch} (h : w.runs = true) : w.live = true := by simp [Watch.live, h]

theorem Watch.live_iff {w : Watch} : w.live = true ↔ w.state ∈ [.armed, .running, .held] := by
  simp [Watch.live, Watch.runs, or_assoc]

theorem Watch.ne_concluded_of_live {w : Watch} (h : w.live = true) : w.state ≠ .concluded := by
  rintro e
  simp [Watch.live_iff, e] at h

/-! ### The shape of a cascade (R80) -/

/-- An operation on a table from which, whatever procedure concludes, CONCLUDED watches stay: it is done, or it
concludes a live watch with an outcome in `os` and is done, or it is two such operations in turn. -/
inductive Cascades (A : Set Idx) (os : Set WOutcome) : Table → (Concluder → Table) → Prop
  | done {T T' : Table} {op : Concluder → Table} : Stays A T T' → (∀ rec, op rec = T') → Cascades A os T op
  | concludes {T T' : Table} {op : Concluder → Table} {i : Idx} {o : WOutcome} (cause : Cause) (t : Time) :
    Stays A T T' → (T'.watch i).live = true → o ∈ os → (∀ rec, op rec = rec T' i o cause t) → Cascades A os T op
  | seq {T : Table} {op : Concluder → Table} {rest : Concluder → Table → Table} : Cascades A os T op →
    (∀ T', Cascades A os T' fun rec => rest rec T') → Cascades A os T fun rec => rest rec (op rec)

/-- A conclusion procedure under which every CONCLUDED watch stays while a live one concludes. -/
def Concluder.Settles (rec : Concluder) : Prop :=
  ∀ T i o cause t, (T.watch i).live = true → Stays ∅ T (rec T i o cause t)

/-- The watches that can still conclude. -/
def openWatches (T : Table) : Finset Idx := Finset.univ.filter fun i => (T.watch i).state ≠ .concluded

@[simp] theorem mem_openWatches {T : Table} {i : Idx} : i ∈ openWatches T ↔ (T.watch i).state ≠ .concluded := by
  simp [openWatches]

/-- A watch that concludes inside a cascade was open before it (R96). -/
theorem Stays.openWatches_subset {A : Set Idx} {T T' : Table} (h : Stays A T T') :
    openWatches T' ⊆ openWatches T := by
  intro j hj
  rw [mem_openWatches] at hj ⊢
  exact fun e => hj ((h j e).state.trans e)

/-- How deep the conclusion of a live watch can nest conclusions, itself counted: each open watch concludes once, and
once more from its own re-arm, which only a conclusion MET is followed by (R93, R96). -/
def nesting (T : Table) (o : WOutcome) : Nat := 2 * (openWatches T).card - if o = .met then 0 else 1

theorem Stays.nesting_le {A : Set Idx} {T T' : Table} (h : Stays A T T') (o : WOutcome) :
    nesting T' o ≤ nesting T o :=
  Nat.sub_le_sub_right (Nat.mul_le_mul_left 2 (Finset.card_le_card h.openWatches_subset)) _

/-- Two conclusion procedures that agree on live watches to a depth of nesting. -/
def Concluder.Agrees (n : Nat) (rec rec' : Concluder) : Prop :=
  ∀ T i o cause t, (T.watch i).live = true → nesting T o ≤ n → rec T i o cause t = rec' T i o cause t

namespace Cascades

variable {A : Set Idx} {os : Set WOutcome} {T T' : Table} {op : Concluder → Table} {rec rec' : Concluder} {i : Idx}

theorem after (h : Stays A T T') (k : Cascades A os T' op) : Cascades A os T op := by
  induction k with
  | done hs he => exact .done (h.trans hs) he
  | concludes cause t hs hl ho he => exact .concludes cause t (h.trans hs) hl ho he
  | seq _ hnext ih _ => exact .seq (ih h) hnext

/-- A live watch changes before the rest. -/
theorem change (h : Changes i T T') (hi : (T.watch i).live = true) (k : Cascades A os T' op) : Cascades A os T op :=
  k.after (h.stays A (Watch.ne_concluded_of_live hi))

/-- A live watch concludes. -/
theorem conclude {o : WOutcome} (hi : (T.watch i).live = true) (ho : o ∈ os) (cause : Cause) (t : Time) :
    Cascades A os T fun rec => rec T i o cause t :=
  .concludes cause t (.refl A T) hi ho fun _ => rfl

/-- One operation after the other over a list. -/
theorem foldl {α : Type} {f : Concluder → Table → α → Table} {xs : List α}
    (h : ∀ x ∈ xs, ∀ T, Cascades A os T fun rec => f rec T x) (T : Table) :
    Cascades A os T fun rec => xs.foldl (f rec) T := by
  induction xs generalizing T with
  | nil => exact .done (.refl A T) fun _ => rfl
  | cons x xs ih =>
    exact .seq (rest := fun rec T => xs.foldl (f rec) T) (h x List.mem_cons_self T)
      (ih fun y hy => h y (List.mem_cons_of_mem x hy))

/-- A cascade keeps CONCLUDED watches as they are, if each of its conclusions does. -/
theorem stays (h : Cascades A os T op) (hset : rec.Settles) : Stays A T (op rec) := by
  induction h with
  | done hs he => rw [he]; exact hs
  | concludes cause t hs hl _ he => rw [he]; exact hs.trans (hset _ _ _ cause t hl).mono
  | seq _ _ ih ihnext => exact ih.trans (ihnext _)

/-- A cascade is the same under two procedures that agree as deep as its conclusions can nest. -/
theorem agree (h : Cascades A os T op) (hset : rec.Settles) {n : Nat} (hrec : rec.Agrees n rec')
    (hn : ∀ o ∈ os, nesting T o ≤ n) : op rec = op rec' := by
  induction h with
  | done _ he => rw [he, he]
  | concludes cause t hs hl ho he => rw [he, he, hrec _ _ _ cause t hl ((hs.nesting_le _).trans (hn _ ho))]
  | seq hop _ ih ihnext =>
    dsimp only
    rw [← ih hn]
    exact ihnext _ fun o ho => ((hop.stays hset).nesting_le o).trans (hn o ho)

end Cascades

/-! ### When an action is carried out (R86 to R89) -/

theorem inGroupOf_iff {T : Table} {w : Idx} {g : Group} {j : Idx} :
    inGroupOf T w g j = true ↔ (T.watch j).group = some g ∧ (T.watch j).owner = (T.watch w).owner := by
  simp [inGroupOf]

theorem armActionApplies_iff {c : Ctx} {T : Table} {w x : Idx} : armActionApplies c T w x = true ↔
    (T.watch x).state = .idle ∧ (T.watch x).owner = (T.watch w).owner ∧
      ∀ l ∈ (T.watch x).lines, c.view[l].enabled = true := by
  simp [armActionApplies, linesEnabled, and_assoc]

theorem cancelActionApplies_iff {T : Table} {w x : Idx} : cancelActionApplies T w x = true ↔
    (T.watch x).state ∈ [.armed, .running, .held] ∧ (T.watch x).owner = (T.watch w).owner := by
  rw [cancelActionApplies, Bool.and_eq_true, Watch.live_iff, decide_eq_true_iff]

/-- A HOLD_GROUP action of `w` on `g` holds the watch, as the table stands. -/
def holdsMember (T : Table) (w : Idx) (g : Group) (j : Idx) : Bool := inGroupOf T w g j && (T.watch j).runs

theorem holdsMember_iff {T : Table} {w : Idx} {g : Group} {j : Idx} : holdsMember T w g j = true ↔
    ((T.watch j).group = some g ∧ (T.watch j).owner = (T.watch w).owner) ∧ (T.watch j).runs = true := by
  rw [holdsMember, Bool.and_eq_true, inGroupOf_iff]

theorem holdMember_eq (w : Idx) (g : Group) (x : Table × Bool) (j : Idx) :
    holdMember w g x j = if holdsMember x.1 w g j then (holdWatch x.1 j, true) else x := rfl

theorem releaseMember_iff {T : Table} {w : Idx} {g : Group} {j : Idx} :
    (inGroupOf T w g j && (T.watch j).state = .held) = true ↔ ReleaseMember T w g j := by
  simp [inGroupOf_iff, and_assoc]

theorem releaseMember_of_member {rec : Concluder} {c : Ctx} {w : Idx} {g : Group} {T : Table} {j : Idx} (any : Bool)
    (h : ReleaseMember T w g j) : releaseMember rec c w g (T, any) j = (releaseWatch rec c T j, true) :=
  if_pos (releaseMember_iff.2 h)

theorem releaseMember_of_not_member {rec : Concluder} {c : Ctx} {w : Idx} {g : Group} {T : Table} {j : Idx} (any : Bool)
    (h : ¬ReleaseMember T w g j) : releaseMember rec c w g (T, any) j = (T, any) :=
  if_neg (mt releaseMember_iff.1 h)

/-! ### Each operation of the engine is a cascade -/

section Shape

variable {A : Set Idx} {os : Set WOutcome} {T : Table} {i : Idx}

/-- The guard check of a live watch (R52): it joins and goes on, or the watch is BROKEN. -/
theorem checkGuard_cascades (hos : .broken ∈ os) (hi : (T.watch i).live = true) (c : Ctx) (d : StepDesc) (t : Time) :
    Cascades A os T fun rec => checkGuard rec c T i d t := by
  have window (T' : Table) (h : Changes i T T') : Cascades A os T fun _ => addWindow c T' i d t :=
    .done ((h.trans (.addWindow c T' i d t)).stays A (Watch.ne_concluded_of_live hi)) fun _ => rfl
  unfold checkGuard
  cases d.guard with
  | none => exact window T fun j _ => .refl ∅ T j
  | some g =>
    dsimp only
    split
    · exact window _ (.join T g.1 i .guard)
    · exact .conclude hi hos .guard t

/-- The setup of a live watch's step (R50, R51). -/
theorem setUpStep_cascades (hos : .broken ∈ os) (hi : (T.watch i).live = true) (c : Ctx) (d : StepDesc) (t : Time) :
    Cascades A os T fun rec => setUpStep rec c T i d t := by
  have guarded (T' : Table) (h : Changes i T T') (hs : (T'.watch i).live = (T.watch i).live) :
      Cascades A os T fun rec => checkGuard rec c T' i d t :=
    .change h hi (checkGuard_cascades hos (hs.trans hi) c d t)
  unfold setUpStep
  cases d.kind with
  | edge p q k n =>
    have hp := (Changes.modify T i fun w => { w with remaining := n }).trans (.join _ p i .trigger)
    cases q with
    | none => exact guarded _ hp (by simp [Watch.live, Watch.runs])
    | some q => exact guarded _ (hp.trans (.join _ q i .trigger)) (by simp [Watch.live, Watch.runs])
  | span p v mn mx =>
    exact guarded _ ((Changes.modify T i fun w => { w with phase := .waitEntry }).trans (.join _ p i .trigger))
      (by simp [Watch.live, Watch.runs])
  | delay len => exact guarded _ (.addDeadline T c.now i _ _) rfl
  | follow tgt w =>
    dsimp only
    split
    · exact guarded _ (.follow T tgt i) rfl
    · exact .conclude hi hos .chainLost t

/-- A step begin of a live watch (R49): at most one conclusion, of the watch itself and BROKEN. -/
theorem beginStep_cascades (hos : .broken ∈ os) (hi : (T.watch i).live = true) (c : Ctx) (k : Nat) (t : Time) :
    Cascades A os T fun rec => beginStep rec c T i k t := by
  have begun := Changes.modify T i fun w => w.begun k t
  have hlive : ((T.modify i fun w => w.begun k t).watch i).live = true := by
    rw [Table.watch_modify_same]; exact hi
  unfold beginStep
  cases (T.watch i).steps[k]? with
  | none => exact .done (begun.stays A (Watch.ne_concluded_of_live hi)) fun _ => rfl
  | some d => exact .change begun hi (setUpStep_cascades hos hlive c d t)

/-- An arming of a watch that is not CONCLUDED (R45). -/
theorem armWatch_cascades (hos : .broken ∈ os) (hi : (T.watch i).state ≠ .concluded) (c : Ctx) (t : Time) :
    Cascades A os T fun rec => armWatch rec c T i t :=
  .after ((Changes.modify T i fun w => w.armedWith t).stays A hi)
    (beginStep_cascades hos (by simp [Watch.armedWith, Watch.live_iff]) c 0 t)

theorem Watch.releasedNow_live (w : Watch) : w.releasedNow.live = true := by
  cases h : w.heldFrom.getD .armed <;> simp [Watch.releasedNow, RunState.toWState, Watch.live_iff, h]

/-- A release of a live watch (R103). -/
theorem releaseWatch_cascades (hos : .broken ∈ os) (hi : (T.watch i).live = true) (c : Ctx) :
    Cascades A os T fun rec => releaseWatch rec c T i := by
  simp only [releaseWatch_eq]
  exact .change ((Changes.leaveLists T i).trans (.modify _ i Watch.releasedNow)) hi
    (beginStep_cascades hos (by rw [Table.watch_modify_same]; exact Watch.releasedNow_live _) c _ _)

/-- A step completion of a live watch (R73). -/
theorem completeStep_cascades (hi : (T.watch i).live = true) (c : Ctx) (t : Time) :
    Cascades A Set.univ T fun rec => completeStep rec c T i t := by
  unfold completeStep
  dsimp only
  split
  · exact .change ((Changes.endStep T i).trans (.modify _ i fun w => { w with state := .running })) hi
      (beginStep_cascades (Set.mem_univ _) (by simp [Watch.live_iff]) c _ t)
  · exact .change (.endStep T i) hi (.conclude (by simpa using hi) (Set.mem_univ _) .none t)

/-- An occurrence judged for a live watch (R65). -/
theorem judged_cascades (hi : (T.watch i).live = true) {k : Concluder → Table} (hk : Cascades A Set.univ T k)
    (d : StepDesc) (start τ : Time) : Cascades A Set.univ T fun rec => judged rec T i d start τ (k rec) := by
  unfold judged
  cases judgeWindow d start τ with
  | early => exact .conclude hi (Set.mem_univ _) .early τ
  | late due => exact .conclude hi (Set.mem_univ _) .late due
  | accepted => exact hk

end Shape

/-- A delivery (R70, R90). -/
theorem deliver_cascades (A : Set Idx) (c : Ctx) (w : Idx) (o : WOutcome) (t : Time) (T : Table)
    (entry : Idx × BitVec 16) : Cascades A Set.univ T fun rec => deliver rec c w o t T entry := by
  have skipped : Cascades A Set.univ T fun _ => T := .done (.refl A T) fun _ => rfl
  unfold deliver
  dsimp only
  by_cases hskip : ((T.watch entry.1).epoch ≠ entry.2 || !(T.watch entry.1).runs) = true
  · simpa only [if_pos hskip] using skipped
  have hlive : (T.watch entry.1).live = true := Watch.live_of_runs (by simp_all)
  simp only [if_neg hskip]
  cases (T.watch entry.1).step with
  | none => exact skipped
  | some d =>
    dsimp only
    cases d.kind with
    | edge | span | delay => exact skipped
    | follow tgt wanted =>
      dsimp only
      split
      · refine judged_cascades hlive ?_ ..
        split
        · exact completeStep_cascades hlive c _
        · exact .conclude hlive (Set.mem_univ _) .chain _
      · exact skipped

/-- The end of a group action. -/
theorem groupDone_stays {A : Set Idx} {w : Idx} (hw : w ∈ A) (x : Table × Bool) : Stays A x.1 (groupDone w x) := by
  unfold groupDone
  split
  · exact .refl A _
  · exact fun _ _ => .skipAction hw

/-- The rest of a HOLD_GROUP action, some of its indices examined (R88). -/
theorem holdGroup_stays {A : Set Idx} {w : Idx} (hw : w ∈ A) (g : Group) (xs : List Idx) (x : Table × Bool) :
    Stays A x.1 (groupDone w (xs.foldl (holdMember w g) x)) := by
  induction xs generalizing x with
  | nil => exact groupDone_stays hw x
  | cons j xs ih =>
    refine .trans ?_ (ih _)
    rw [holdMember_eq]
    split
    · next h =>
      have hlive := Watch.live_of_runs (holdsMember_iff.1 h).2
      exact (Changes.holdWatch x.1 j).stays A (Watch.ne_concluded_of_live hlive)
    · exact .refl A _

/-- The rest of a RELEASE_GROUP action, some of its indices examined (R89). -/
theorem releaseGroup_cascades {A : Set Idx} {w : Idx} (hw : w ∈ A) (c : Ctx) (g : Group) (xs : List Idx) (T : Table)
    (any : Bool) :
    Cascades A Set.univ T fun rec => groupDone w (xs.foldl (releaseMember rec c w g) (T, any)) := by
  induction xs generalizing T any with
  | nil => exact .done (groupDone_stays hw (T, any)) fun _ => rfl
  | cons j xs ih =>
    by_cases hm : ReleaseMember T w g j
    · have hlive : (T.watch j).live = true := by simp [Watch.live_iff, hm.2.2]
      simp only [List.foldl_cons, releaseMember_of_member any hm]
      exact .seq (rest := fun rec T' => groupDone w (xs.foldl (releaseMember rec c w g) (T', true)))
        (releaseWatch_cascades (Set.mem_univ _) hlive c) fun T' => ih T' true
    · simp only [List.foldl_cons, releaseMember_of_not_member any hm]
      exact ih T any

/-- An action on behalf of `w` (R82 to R89). -/
theorem runAction_cascades {A : Set Idx} {w : Idx} (hw : w ∈ A) (c : Ctx) (t : Time) (a : Action) (T : Table) :
    Cascades A Set.univ T fun rec => runAction rec c w t T a := by
  have skipped : Cascades A Set.univ T fun _ => skipAction T w := .done (fun _ _ => .skipAction hw) fun _ => rfl
  have sent (r : OutReq) : Cascades A Set.univ T fun _ => T.sendOut r := .done (fun _ _ => .sendOut r) fun _ => rfl
  cases a with
  | notify =>
    unfold runAction
    dsimp only
    split
    · exact skipped
    · exact .done (fun _ _ => .sendNotice _) fun _ => rfl
  | outSet o => exact sent _
  | outClear o => exact sent _
  | outRelease o => exact sent _
  | arm x =>
    unfold runAction
    dsimp only
    split
    · next h =>
      obtain ⟨hidle, -⟩ := armActionApplies_iff.1 h
      exact armWatch_cascades (Set.mem_univ _) (by simp [hidle]) c t
    · exact skipped
  | cancel x =>
    unfold runAction
    dsimp only
    split
    · next h =>
      obtain ⟨hstate, -⟩ := cancelActionApplies_iff.1 h
      exact .conclude (Watch.live_iff.2 hstate) (Set.mem_univ _) .action t
    · exact skipped
  | holdGroup g => exact .done (holdGroup_stays hw g allWatches (T, false)) fun _ => rfl
  | releaseGroup g => exact releaseGroup_cascades hw c g allWatches T false

/-! ### The conclusion procedure, in its parts (R78) -/

/-- A conclusion recorded, and the step ended (R76, R58). -/
def recordedTable (T : Table) (i : Idx) (o : WOutcome) (cause : Cause) (t : Time) : Table :=
  endStep (T.modify i fun w => w.concludedWith o cause t) i

/-- Then the actions and the deliveries served (R78). -/
def servedTable (rec : Concluder) (c : Ctx) (T : Table) (i : Idx) (o : WOutcome) (cause : Cause) (t : Time) : Table :=
  let T1 := T.modify i fun w => w.concludedWith o cause t
  ((T1.followersOf i).map fun f => (f, (T1.watch f).epoch)).foldl (deliver rec c i o t)
    ((((recordedTable T i o cause t).watch i).actionsFor o).foldl (runAction rec c i t) (recordedTable T i o cause t))

theorem concludeWith_eq (rec : Concluder) (c : Ctx) (T : Table) (i : Idx) (o : WOutcome) (cause : Cause) (t : Time) :
    concludeWith rec c T i o cause t =
      if o = .met && ((servedTable rec c T i o cause t).watch i).rep = .cyclic then
        beginStep rec c ((servedTable rec c T i o cause t).modify i fun w => w.rearmed t) i 0 t
      else servedTable rec c T i o cause t := rfl

/-- The procedure of a happening follows 128 conclusions, itself counted (log 13). -/
theorem concluder_eq (c : Ctx) : concluder c = concludeWith (conclude c 127) c := rfl

section Procedure

variable {rec rec' : Concluder} {T : Table} {i : Idx} {o : WOutcome}

@[simp] theorem recordedTable_watch (cause : Cause) (t : Time) :
    (recordedTable T i o cause t).watch i = (T.watch i).concludedWith o cause t := by
  rw [recordedTable, watch_endStep, Table.watch_modify_same]

theorem recordedTable_state (cause : Cause) (t : Time) :
    ((recordedTable T i o cause t).watch i).state = .concluded := by
  rw [recordedTable_watch]; rfl

theorem recordedTable_changes (cause : Cause) (t : Time) : Changes i T (recordedTable T i o cause t) :=
  (Changes.modify T i _).trans (.endStep _ i)

theorem Watch.concludedWith_actionsFor (w : Watch) (o o' : WOutcome) (cause : Cause) (t : Time) :
    (w.concludedWith o cause t).actionsFor o' = w.actionsFor o' := by cases o' <;> rfl

/-- The actions and the deliveries are a cascade that skips actions of the concluding watch alone, if it has any. -/
theorem servedTable_cascades {A : Set Idx} (hA : (T.watch i).actionsFor o ≠ [] → i ∈ A) (c : Ctx) (cause : Cause)
    (t : Time) : Cascades A Set.univ (recordedTable T i o cause t) fun rec => servedTable rec c T i o cause t := by
  refine .seq (rest := fun rec T' => List.foldl (deliver rec c i o t) T' _) ?_
    (.foldl fun x _ T' => deliver_cascades A c i o t T' x)
  refine .foldl (fun a ha T' => runAction_cascades (hA fun e => ?_) c t a T') _
  rw [recordedTable_watch, Watch.concludedWith_actionsFor, e] at ha
  cases ha

theorem servedTable_stays (hset : rec.Settles) (c : Ctx) (cause : Cause) (t : Time) :
    Stays {i} (recordedTable T i o cause t) (servedTable rec c T i o cause t) :=
  (servedTable_cascades (fun _ => Set.mem_singleton i) c cause t).stays hset

theorem Watch.rearmed_live (w : Watch) (t : Time) : (w.rearmed t).live = true := by
  simp [Watch.rearmed, Watch.live_iff]

/-- The re-arm of a CYCLIC watch begins with a live watch. -/
theorem rearm_cascades {os : Set WOutcome} (hos : .broken ∈ os) (c : Ctx) (t : Time) :
    Cascades ∅ os (T.modify i fun w => w.rearmed t) fun rec =>
      beginStep rec c (T.modify i fun w => w.rearmed t) i 0 t :=
  beginStep_cascades hos (by rw [Table.watch_modify_same]; exact Watch.rearmed_live ..) c 0 t

/-- A conclusion of a live watch keeps CONCLUDED watches as they are, if those nested in it do. -/
theorem concludeWith_settles (hset : rec.Settles) (c : Ctx) : (concludeWith rec c).Settles := by
  intro T i o cause t hlive
  have hi := Watch.ne_concluded_of_live hlive
  have hserved : Stays ∅ T (servedTable rec c T i o cause t) :=
    Stays.narrow (((recordedTable_changes cause t).stays {i} hi).trans (servedTable_stays hset c cause t)) hi
  rw [concludeWith_eq]
  split
  · exact (hserved.change hi (.modify _ i _)).trans ((rearm_cascades rfl c t).stays hset)
  · exact hserved

/-- So does every conclusion procedure of the model. -/
theorem conclude_settles (c : Ctx) (n : Nat) : (conclude c n).Settles := by
  induction n with
  | zero =>
    exact fun T i o cause t hlive => (recordedTable_changes cause t).stays ∅ (Watch.ne_concluded_of_live hlive)
  | succ n ih => exact concludeWith_settles ih c

/-! ### The nesting is bounded (R96) -/

/-- Once its conclusion is recorded, the concluding watch is no longer open, and no other has opened. -/
theorem openWatches_recordedTable (cause : Cause) (t : Time) :
    openWatches (recordedTable T i o cause t) ⊆ (openWatches T).erase i := by
  intro j hj
  rw [mem_openWatches] at hj
  have hne : j ≠ i := by rintro rfl; exact hj (recordedTable_state cause t)
  rw [Finset.mem_erase, mem_openWatches, ← (recordedTable_changes cause t j hne).state]
  exact ⟨hne, hj⟩

/-- A re-arm opens the watch again, and no other. -/
theorem openWatches_modify_subset (f : Watch → Watch) : openWatches (T.modify i f) ⊆ insert i (openWatches T) := by
  intro j hj
  by_cases hne : j = i
  · exact Finset.mem_insert.2 (.inl hne)
  · rw [mem_openWatches, Table.watch_modify_ne _ _ hne, ← mem_openWatches] at hj
    exact Finset.mem_insert_of_mem hj

/-- A conclusion is the same over two procedures that agree to twice the number of the other open watches, and to one
more where a re-arm may follow. -/
theorem concludeWith_congr (hset : rec.Settles) {n : Nat} (hrec : rec.Agrees n rec') (c : Ctx) (cause : Cause)
    (t : Time) (hn : 2 * ((openWatches T).erase i).card + (if o = .met then 1 else 0) ≤ n) :
    concludeWith rec c T i o cause t = concludeWith rec' c T i o cause t := by
  have hrecorded := Finset.card_le_card (openWatches_recordedTable (T := T) (i := i) (o := o) cause t)
  have hserved : servedTable rec c T i o cause t = servedTable rec' c T i o cause t :=
    (servedTable_cascades (A := {i}) (fun _ => Set.mem_singleton i) c cause t).agree hset hrec fun o' _ => by
      unfold nesting; omega
  rw [concludeWith_eq, concludeWith_eq, ← hserved]
  split
  · next hmet =>
    refine (rearm_cascades (os := {.broken}) rfl c t).agree hset hrec fun o' ho' => ?_
    obtain rfl := Set.mem_singleton_iff.1 ho'
    have hopen := Finset.card_le_card (servedTable_stays (T := T) (i := i) (o := o) hset c cause t).openWatches_subset
    have hrearmed := (Finset.card_le_card (openWatches_modify_subset (T := servedTable rec c T i o cause t) (i := i)
      fun w => w.rearmed t)).trans (Finset.card_insert_le ..)
    have homet : o = .met := by simp_all
    rw [if_pos homet] at hn
    simp only [nesting, reduceCtorEq, if_false]
    omega
  · rfl

/-- A further level of nesting changes nothing that the levels before it hold. -/
theorem conclude_agrees (c : Ctx) (n : Nat) : (conclude c n).Agrees n (conclude c (n + 1)) := by
  induction n with
  | zero =>
    intro T i o cause t hlive hn
    have hpos : 0 < (openWatches T).card :=
      Finset.card_pos.2 ⟨i, mem_openWatches.2 (Watch.ne_concluded_of_live hlive)⟩
    unfold nesting at hn
    split at hn <;> omega
  | succ n ih =>
    intro T i o cause t hlive hn
    have hcard := Finset.card_erase_add_one (mem_openWatches.2 (Watch.ne_concluded_of_live hlive))
    refine concludeWith_congr (conclude_settles c n) ih c cause t ?_
    unfold nesting at hn
    split at hn <;> simp_all <;> omega

end Procedure

/-- Settles O19: 63 other watches nest at most 126 conclusions, and a re-arm one more (R96, log 13). -/
theorem conclusionProcedure : Obligations.ConclusionProcedure := by
  intro c T i o cause t
  have hothers : ((openWatches T).erase i).card ≤ 63 := by
    have := Finset.card_le_card (Finset.erase_subset_erase i (Finset.subset_univ (openWatches T)))
    simpa using this
  rw [concluder_eq]
  refine concludeWith_congr (conclude_settles c 127) (conclude_agrees c 127) c cause t ?_
  split <;> omega

/-! ### The record of a conclusion after its cascade (R76, R79) -/

theorem Watch.concludedWith_eq_ended (w : Watch) (o : WOutcome) (cause : Cause) (t : Time) :
    w.concludedWith o cause t = w.ended o cause t := by cases o <;> rfl

/-- The concluding watch enters no list in its cascade. -/
theorem Rests.no_entries {A : Set Idx} {T T' : Table} {i : Idx} {o : WOutcome} {cause : Cause} {t : Time}
    (h : Rests A (recordedTable T i o cause t) T' i) :
    (∀ l, ∀ x ∈ T'.listenersOf l, x.watch ≠ i) ∧ (∀ d ∈ T'.deadlines, d.watch ≠ i) ∧
      ∀ x, (T.watch i).followTarget = some x → i ∉ T'.followersOf x := by
  have ended : StepEnded _ (recordedTable T i o cause t) i := endStep_ends _ i
  refine ⟨fun l x hx e => ?_, fun d hd e => ?_, fun x hx hmem => ?_⟩
  · have hold := h.listeners l x hx e
    rw [ended.lines] at hold
    simp [e] at hold
  · have hold := h.deadlines d hd e
    rw [ended.deadlines] at hold
    simp [e] at hold
  · have htarget : ((T.modify i fun w => w.concludedWith o cause t).watch i).followTarget = some x := by
      rw [Table.watch_modify_same, ← hx]; rfl
    have hold := h.followers x hmem
    rw [ended.followers, if_pos htarget] at hold
    simp at hold

/-- Settles O20: the concluding watch rests through its actions and deliveries, and no re-arm follows. -/
theorem conclusionRecorded : Obligations.ConclusionRecorded := by
  intro c T i o cause t honce
  have hserved := servedTable_stays (T := T) (i := i) (o := o) (conclude_settles c 127) c cause t i
    (recordedTable_state cause t)
  have hnotrearmed : ¬(o = .met ∧ ((servedTable (conclude c 127) c T i o cause t).watch i).rep = .cyclic) := by
    rintro ⟨hmet, hcyclic⟩
    rw [hserved.rep, recordedTable_watch] at hcyclic
    have hrep : (T.watch i).rep = .once := honce.resolve_left (absurd hmet)
    exact absurd (hrep.symm.trans hcyclic) (by decide)
  have hresult : concluder c T i o cause t = servedTable (conclude c 127) c T i o cause t := by
    rw [concluder_eq, concludeWith_eq, if_neg (by simpa using hnotrearmed)]
  dsimp only
  rw [hresult]
  refine ⟨?_, hserved.no_entries⟩
  rw [← Watch.concludedWith_eq_ended, ← recordedTable_watch (T := T) cause t]
  exact hserved.record

/-- A watch that concludes CANCELLED runs no actions, so its skipped count stays too (R78, R106). -/
theorem concluder_cancelled_watch (c : Ctx) (T : Table) (i : Idx) (cause : Cause) (t : Time) :
    (concluder c T i .cancelled cause t).watch i = (T.watch i).ended .cancelled cause t := by
  have hserved : Stays ∅ _ (servedTable (conclude c 127) c T i .cancelled cause t) :=
    (servedTable_cascades (fun h => absurd rfl h) c cause t).stays (conclude_settles c 127)
  rw [concluder_eq, concludeWith_eq, if_neg (by simp),
    (hserved i (recordedTable_state cause t)).watch_eq (Set.notMem_empty i), recordedTable_watch,
    Watch.concludedWith_eq_ended]

/-- With no followers, the end of its step is its whole cascade. -/
theorem concluder_cancelled_alone {c : Ctx} {T : Table} {i : Idx} (h : T.followersOf i = []) (cause : Cause)
    (t : Time) : concluder c T i .cancelled cause t = endStep (T.modify i fun w => w.ended .cancelled cause t) i := by
  have hserved : servedTable (conclude c 127) c T i .cancelled cause t = recordedTable T i .cancelled cause t := by
    simp [servedTable, h, Watch.actionsFor]
  rw [concluder_eq, concludeWith_eq, if_neg (by simp), hserved]
  simp only [recordedTable, Watch.concludedWith_eq_ended]

/-- Settles O23: CANCEL is the conclusion CANCELLED of a live watch, and no more (R106). -/
theorem cancelConcludes : Obligations.CancelConcludes := by
  intro p b i s ho hn
  refine ⟨concluder s.ctx s.engine.table i .cancelled .host s.time.now, ?_, rfl, concluder_cancelled_watch ..,
    fun h => ?_⟩
  · exact exec_onWatch ho hn (by decide) rfl rfl
  · rw [concluder_cancelled_alone h]
    exact endStep_ends _ i

/-! ### The actions (R82 to R89) -/

/-- A skipped count saturates at FFh (R82). -/
theorem skipAction_eq (T : Table) (w : Idx) : skipAction T w =
    T.modify w fun x => { x with skipped := if x.skipped = 0xFF then x.skipped else x.skipped + 1 } := rfl

theorem groupDone_of_any (w : Idx) {x : Table × Bool} (h : x.2 = true) : groupDone w x = x.1 := if_pos h

/-- A group action that finds no member is skipped. -/
theorem groupDone_foldl_of_fixed {f : Table × Bool → Idx → Table × Bool} {T : Table} (w : Idx)
    (h : ∀ j, f (T, false) j = (T, false)) : groupDone w (allWatches.foldl f (T, false)) = skipAction T w := by
  rw [List.foldl_fixed' h]; rfl

/-! ### HOLD_GROUP (R88) -/

/-- The members of `T` among the indices `xs` are held, and nothing else has changed. -/
structure MembersHeld (T : Table) (w : Idx) (g : Group) (xs : List Idx) (T' : Table) : Prop where
  watch : ∀ k, T'.watch k = if k ∈ xs ∧ holdsMember T w g k = true then (T.watch k).heldNow else T.watch k
  deadlines : T'.deadlines = T.deadlines.filter fun d => ¬(d.watch ∈ xs ∧ holdsMember T w g d.watch = true)
  lists : T'.listeners = T.listeners ∧ T'.followers = T.followers
  paths : T'.outPath = T.outPath ∧ T'.noticePath = T.noticePath

/-- A hold changes its record and removes its deadline (R100). -/
theorem watch_holdWatch (T : Table) (i j : Idx) :
    (holdWatch T i).watch j = if j = i then (T.watch i).heldNow else T.watch j :=
  Table.watch_modify T i j Watch.heldNow

theorem holdWatch_deadlines (T : Table) (i : Idx) :
    (holdWatch T i).deadlines = T.deadlines.filter fun d => d.watch ≠ i := rfl

/-- A member is held once: a held watch no longer runs, and keeps its group and its owner. -/
theorem MembersHeld.holdsMember_eq {T T' : Table} {w : Idx} {g : Group} {xs : List Idx}
    (h : MembersHeld T w g xs T') (j : Idx) :
    holdsMember T' w g j = true ↔ j ∉ xs ∧ holdsMember T w g j = true := by
  have hgroup (k : Idx) : (T'.watch k).group = (T.watch k).group := by rw [h.watch]; split <;> rfl
  have howner (k : Idx) : (T'.watch k).owner = (T.watch k).owner := by rw [h.watch]; split <;> rfl
  have hruns : (T'.watch j).runs = true ↔
      ¬(j ∈ xs ∧ holdsMember T w g j = true) ∧ (T.watch j).runs = true := by
    rw [h.watch]
    split <;> simp_all [Watch.heldNow, Watch.runs]
  rw [holdsMember_iff, holdsMember_iff, hgroup, howner, howner, hruns, holdsMember_iff]
  tauto

theorem membersHeld_foldl (T : Table) (w : Idx) (g : Group) (xs : List Idx) :
    MembersHeld T w g xs (xs.foldl (holdMember w g) (T, false)).1 ∧
      (xs.foldl (holdMember w g) (T, false)).2 = xs.any (holdsMember T w g) := by
  induction xs using List.reverseRecOn with
  | nil => exact ⟨⟨by simp, by simp, ⟨rfl, rfl⟩, ⟨rfl, rfl⟩⟩, rfl⟩
  | append_singleton xs j ih =>
    obtain ⟨held, any⟩ := ih
    rw [List.foldl_append, List.foldl_cons, List.foldl_nil, holdMember_eq]
    by_cases hj : j ∉ xs ∧ holdsMember T w g j = true
    · obtain ⟨hnew, hmember⟩ := hj
      rw [if_pos ((held.holdsMember_eq j).2 ⟨hnew, hmember⟩)]
      refine ⟨⟨fun k => ?_, ?_, held.lists, held.paths⟩, by simp [hmember]⟩
      · rw [watch_holdWatch]
        split
        · next hk => subst hk; simp [held.watch, hnew, hmember]
        · next hk => simp [held.watch, hk]
      · rw [holdWatch_deadlines, held.deadlines, List.filter_filter]
        refine List.filter_congr fun d _ => ?_
        by_cases hd : d.watch = j <;> simp [hd, hmember]
    · rw [if_neg (mt (held.holdsMember_eq j).1 hj)]
      have hsame (k : Idx) : k ∈ xs ++ [j] ∧ holdsMember T w g k = true ↔ k ∈ xs ∧ holdsMember T w g k = true := by
        simp only [List.mem_append, List.mem_singleton]
        refine ⟨fun ⟨hk, hm⟩ => ⟨hk.elim id ?_, hm⟩, fun ⟨hk, hm⟩ => ⟨.inl hk, hm⟩⟩
        rintro rfl
        exact not_not.1 fun hnew => hj ⟨hnew, hm⟩
      refine ⟨⟨fun k => ?_, ?_, held.lists, held.paths⟩, ?_⟩
      · simp only [hsame, held.watch]
      · simp only [hsame, held.deadlines]
      · rw [any, Bool.eq_iff_iff, List.any_eq_true, List.any_eq_true]
        exact exists_congr fun k => (hsame k).symm

/-- A HOLD_GROUP action that finds a member holds them all and is not skipped. -/
theorem runAction_holdGroup {T : Table} {w : Idx} {g : Group} {j : Idx} (hj : holdsMember T w g j = true)
    (rec : Concluder) (c : Ctx) (t : Time) :
    MembersHeld T w g allWatches (runAction rec c w t T (.holdGroup g)) := by
  obtain ⟨held, any⟩ := membersHeld_foldl T w g allWatches
  rw [runAction, groupDone_of_any w (any.trans (List.any_eq_true.2 ⟨j, List.mem_finRange j, hj⟩))]
  exact held

/-! ### RELEASE_GROUP (R89) -/

/-- The rest of the examination, from index `n` on, and whether it released a watch. -/
theorem releasePass_foldl (rec : Concluder) (c : Ctx) (w : Idx) (g : Group) (n : Nat) (hn : n ≤ 64) (T : Table)
    (any : Bool) : ∃ released T', ReleasePass rec c w g n T released T' ∧
      (allWatches.drop n).foldl (releaseMember rec c w g) (T, any) = (T', any || !released.isEmpty) := by
  induction hn using Nat.decreasingInduction generalizing T any with
  | self =>
    have hdrop : allWatches.drop 64 = [] := List.drop_eq_nil_of_le (by simp [allWatches])
    exact ⟨[], T, .done T, by simp [hdrop]⟩
  | of_succ n hn ih =>
    have hdrop : allWatches.drop n = ⟨n, hn⟩ :: allWatches.drop (n + 1) := by
      rw [List.drop_eq_getElem_cons (by simpa [allWatches] using hn)]
      simp [allWatches]
    rw [hdrop, List.foldl_cons]
    by_cases hm : ReleaseMember T w g ⟨n, hn⟩
    · obtain ⟨released, T', hpass, heq⟩ := ih (releaseWatch rec c T ⟨n, hn⟩) true
      refine ⟨⟨n, hn⟩ :: released, T', .release ⟨n, hn⟩ T T' released hm hpass, ?_⟩
      rw [releaseMember_of_member any hm, heq]
      simp
    · obtain ⟨released, T', hpass, heq⟩ := ih T any
      exact ⟨released, T', .pass ⟨n, hn⟩ T T' released hm hpass, by rw [releaseMember_of_not_member any hm, heq]⟩

/-- With no watch released the pass leaves the table as it is. -/
theorem ReleasePass.eq_of_nil {rec : Concluder} {c : Ctx} {w : Idx} {g : Group} {n : Nat} {T T' : Table}
    {released : List Idx} (h : ReleasePass rec c w g n T released T') (hnil : released = []) : T' = T := by
  induction h with
  | done => rfl
  | pass _ _ _ _ _ _ ih => exact ih hnil
  | release => cases hnil

/-- Settles O21: each action is its effect where its condition holds, and the count where it does not. -/
theorem actionsRunOrSkip : Obligations.ActionsRunOrSkip := by
  intro rec c T w t
  dsimp only
  rw [← skipAction_eq]
  refine ⟨rfl, fun _ => rfl, fun _ => rfl, fun _ => rfl, fun x => ?_, fun x => ?_, fun g hnone => ?_,
    fun g j hj hruns => ?_, fun g hnone => ?_, fun g => ?_⟩
  · simp only [runAction, armActionApplies_iff]; rfl
  · simp only [runAction, cancelActionApplies_iff]
  · rw [runAction]
    refine groupDone_foldl_of_fixed w fun j => if_neg fun h => ?_
    obtain ⟨hheld, hruns⟩ := holdsMember_iff.1 h
    exact absurd hruns (by simp [hnone j hheld])
  · have h := runAction_holdGroup (holdsMember_iff.2 ⟨hj, hruns⟩) rec c t
    refine ⟨_, rfl, fun k => ?_, ?_, h.lists.1, h.lists.2, h.paths.1, h.paths.2⟩
    · exact (h.watch k).trans (if_congr (by simp [holdsMember_iff, allWatches]) rfl rfl)
    · exact h.deadlines.trans (List.filter_congr fun d _ => by simp [holdsMember_iff, allWatches])
  · rw [runAction]
    exact groupDone_foldl_of_fixed w fun j =>
      releaseMember_of_not_member false fun ⟨hgroup, howner, hstate⟩ => hnone j ⟨hgroup, howner⟩ hstate
  · obtain ⟨released, T', hpass, heq⟩ := releasePass_foldl rec c w g 0 (Nat.zero_le 64) T false
    refine ⟨released, T', hpass, ?_⟩
    rw [List.drop_zero] at heq
    rw [runAction, heq, groupDone]
    cases released with
    | nil => rw [hpass.eq_of_nil rfl]; rfl
    | cons => rfl

end Sys2Proof.Machine

/-! PROOFS. Hold and release: how a step begins or breaks at once, a hold and a release of a running watch (O24). -/

namespace Sys2Proof.Machine

open Sys2Proof

/-! ### Step begin: placed by its kind, guarded, and with its window (R49 to R53) -/

/-- A step with neither guard nor upper window limit: what its setup by kind alone begins (R50, R51). -/
def StepDesc.bare (d : StepDesc) : StepDesc := { d with guard := none, notAfter := none }

/-- A step's setup by its kind: its record and its lists, and a DELAY step's deadline (R50, R51). -/
def placeStep (c : Ctx) (T : Table) (i : Idx) (d : StepDesc) (t : Time) : Table :=
  match d.kind with
  | .edge p q _ n =>
    let T1 := (T.modify i fun w => { w with remaining := n }).join p i .trigger
    q.elim T1 fun q => T1.join q i .trigger
  | .span p _ _ _ => (T.modify i fun w => { w with phase := .waitEntry }).join p i .trigger
  | .delay len => T.addDeadline c.now i (after t len) .delayEnd
  | .follow tgt _ => T.follow tgt i

theorem targetFits_follow {T : Table} {i tgt : Idx} {d : StepDesc} {wanted : Wanted}
    (hd : d.kind = .follow tgt wanted) : TargetFits T i d ↔ targetPasses T i tgt = true := by
  simp [TargetFits, StepDesc.target, hd, targetPasses]

theorem targetFits_of_kind {T : Table} {i : Idx} {d : StepDesc} (hd : ∀ tgt wanted, d.kind ≠ .follow tgt wanted) :
    TargetFits T i d := by
  cases hk : d.kind with
  | follow tgt wanted => exact absurd hk (hd tgt wanted)
  | edge | span | delay => simp [TargetFits, StepDesc.target, hk]

/-- What a target's check reads of the records: which are FREE, and the owners (R51). -/
theorem targetFits_modify {T : Table} {i : Idx} {f : Watch → Watch}
    (hstate : (f (T.watch i)).state = .free ↔ (T.watch i).state = .free)
    (howner : (f (T.watch i)).owner = (T.watch i).owner) (d : StepDesc) :
    TargetFits (T.modify i f) i d ↔ TargetFits T i d := by
  have hstates (j : Idx) : ((T.modify i f).watch j).state = .free ↔ (T.watch j).state = .free := by
    rw [Table.watch_modify]
    split
    · next h => rw [h, hstate]
    · exact Iff.rfl
  have howners (j : Idx) : ((T.modify i f).watch j).owner = (T.watch j).owner := by
    rw [Table.watch_modify]
    split
    · next h => rw [h, howner]
    · rfl
  simp [TargetFits, hstates, howners, howner]

/-- With a target that fits, the setup places the step and goes on to its guard. -/
theorem setUpStep_of_targetFits {T : Table} {i : Idx} {d : StepDesc} (h : TargetFits T i d) (rec : Concluder) (c : Ctx)
    (t : Time) : setUpStep rec c T i d t = checkGuard rec c (placeStep c T i d t) i d t := by
  unfold setUpStep placeStep
  cases hd : d.kind with
  | edge p q kind n => cases q <;> rfl
  | span | delay => rfl
  | follow tgt wanted => exact if_pos ((targetFits_follow hd).1 h)

/-- A FOLLOW step whose target does not fit breaks at once (R51). -/
theorem setUpStep_of_not_targetFits {T : Table} {i : Idx} {d : StepDesc} (h : ¬TargetFits T i d) (rec : Concluder)
    (c : Ctx) (t : Time) : setUpStep rec c T i d t = rec T i .broken .chainLost t := by
  unfold setUpStep
  cases hd : d.kind with
  | follow tgt wanted => exact if_neg (mt (targetFits_follow hd).2 h)
  | edge | span | delay => exact absurd (targetFits_of_kind (by simp [hd])) h

/-- A step placed by its kind alone is begun, but for its guard and its window. -/
theorem placeStep_begun (c : Ctx) (T : Table) (i : Idx) (k : Nat) (t : Time) (d : StepDesc) :
    StepBegun c T (placeStep c (T.modify i fun w => w.begun k t) i d t) i k t d.bare where
  watch := by
    unfold placeStep
    cases hd : d.kind with
    | edge p q kind n => cases q <;> simp [hd, StepDesc.bare, StepDesc.firstPhase, StepDesc.firstCount, Watch.begun]
    | span | delay | follow => simp [hd, StepDesc.bare, StepDesc.firstPhase, StepDesc.firstCount, Watch.begun]
  others j hj := by
    unfold placeStep
    cases hd : d.kind with
    | edge p q kind n => cases q <;> simp [Table.watch_modify_ne, hj]
    | span | delay | follow => simp [Table.watch_modify_ne, hj]
  lines l := by
    unfold placeStep
    cases hd : d.kind with
    | edge p q kind n =>
      cases q <;> simp [hd, StepDesc.bare, StepDesc.entriesOn, StepDesc.triggers, Table.listenersOf_join]
    | span | delay | follow => simp [hd, StepDesc.bare, StepDesc.entriesOn, StepDesc.triggers, Table.listenersOf_join]
  followers x := by
    unfold placeStep
    cases hd : d.kind with
    | edge p q kind n => cases q <;> simp [hd, StepDesc.bare, StepDesc.target]
    | span | delay => simp [hd, StepDesc.bare, StepDesc.target]
    | follow => simp [hd, StepDesc.bare, StepDesc.target, Table.followersOf_follow]
  deadlines := by
    unfold placeStep
    cases hd : d.kind with
    | edge p q kind n => cases q <;> simp [hd, StepDesc.bare, StepDesc.deadlineFrom]
    | span | follow => simp [hd, StepDesc.bare, StepDesc.deadlineFrom]
    | delay => simp [hd, StepDesc.bare, StepDesc.deadlineFrom, after]
  paths := by
    unfold placeStep
    cases hd : d.kind with
    | edge p q kind n => cases q <;> exact ⟨rfl, rfl⟩
    | span | delay | follow => exact ⟨rfl, rfl⟩

/-- A guard that does not hold breaks the step (R52). -/
theorem checkGuard_of_not_guardHolds {c : Ctx} {d : StepDesc} (h : ¬GuardHolds c.view d) (rec : Concluder) (T : Table)
    (i : Idx) (t : Time) : checkGuard rec c T i d t = rec T i .broken .guard t := by
  unfold checkGuard
  cases hg : d.guard with
  | none => simp [GuardHolds, hg] at h
  | some g => exact if_neg (by simpa [GuardHolds, hg] using h)

namespace StepBegun

variable {c : Ctx} {T T1 : Table} {i : Idx} {k : Nat} {t : Time} {d : StepDesc}

/-- The window deadline completes a step that is begun but for it (R53). -/
theorem addWindow (h : StepBegun c T T1 i k t { d with notAfter := none }) :
    StepBegun c T (addWindow c T1 i d t) i k t d := by
  obtain ⟨watch, others, lines, followers, deadlines, paths⟩ := h
  unfold Machine.addWindow
  cases hd : d.kind with
  | delay len =>
    refine ⟨watch, others, lines, followers, ?_, paths⟩
    simpa [StepDesc.deadlineFrom, hd] using deadlines
  | edge | span | follow =>
    have hnone : T1.deadlines = T.deadlines := by simpa [StepDesc.deadlineFrom, hd] using deadlines
    cases ha : d.notAfter with
    | none => exact ⟨watch, others, lines, followers, by simp [StepDesc.deadlineFrom, hd, ha, hnone], paths⟩
    | some na =>
      exact ⟨watch, others, lines, followers, by simp [StepDesc.deadlineFrom, hd, ha, hnone, after], paths⟩

/-- The guard's place in its listener list comes last (R52). -/
theorem joinGuard {g : Line × Level} (hg : d.guard = some g) (h : StepBegun c T T1 i k t d.bare) :
    StepBegun c T (T1.join g.1 i .guard) i k t { d with notAfter := none } := by
  obtain ⟨watch, others, lines, followers, deadlines, paths⟩ := h
  refine ⟨watch, others, fun l => ?_, followers, deadlines, paths⟩
  rw [Table.listenersOf_join, lines]
  simp [StepDesc.entriesOn, StepDesc.bare, StepDesc.triggers, hg]

/-- A guard that holds, if there is one, lets the step stand (R52, R53). -/
theorem checkGuard (h : StepBegun c T T1 i k t d.bare) (hguard : GuardHolds c.view d) (rec : Concluder) :
    StepBegun c T (checkGuard rec c T1 i d t) i k t d := by
  unfold Machine.checkGuard
  cases hg : d.guard with
  | none =>
    have hbare : d.bare = { d with notAfter := none } := by rw [StepDesc.bare, ← hg]
    exact addWindow (hbare ▸ h)
  | some g =>
    dsimp only
    rw [if_pos (by simpa [GuardHolds, hg] using hguard)]
    exact addWindow (h.joinGuard hg)

end StepBegun

section Begin

variable {T : Table} {i : Idx} {k : Nat} {d : StepDesc} (hstep : (T.watch i).steps[k]? = some d) (rec : Concluder)
  (c : Ctx) (t : Time)

include hstep

theorem beginStep_eq_setUpStep :
    beginStep rec c T i k t = setUpStep rec c (T.modify i fun w => w.begun k t) i d t := by
  rw [beginStep, hstep]

/-- A step whose target fits goes from its placing to its guard (R50 to R52). -/
theorem beginStep_of_targetFits (htarget : TargetFits T i d) : beginStep rec c T i k t =
    checkGuard rec c (placeStep c (T.modify i fun w => w.begun k t) i d t) i d t := by
  rw [beginStep_eq_setUpStep hstep]
  exact setUpStep_of_targetFits ((targetFits_modify Iff.rfl rfl d).2 htarget) rec c t

/-- A step whose target does not fit is broken as it begins, with nothing placed (R51). -/
theorem beginStep_chainLost (htarget : ¬TargetFits T i d) :
    beginStep rec c T i k t = rec (T.modify i fun w => w.begun k t) i .broken .chainLost t := by
  rw [beginStep_eq_setUpStep hstep]
  exact setUpStep_of_not_targetFits (mt (targetFits_modify Iff.rfl rfl d).1 htarget) rec c t

/-- A step whose target fits and whose guard holds begins and stands (R49 to R53). -/
theorem beginStep_begun (htarget : TargetFits T i d) (hguard : GuardHolds c.view d) :
    StepBegun c T (beginStep rec c T i k t) i k t d := by
  rw [beginStep_of_targetFits hstep rec c t htarget]
  exact (placeStep_begun c T i k t d).checkGuard hguard rec

/-- A step whose guard does not hold is broken as it begins, placed by its kind (R52). -/
theorem beginStep_guard (htarget : TargetFits T i d) (hguard : ¬GuardHolds c.view d) :
    beginStep rec c T i k t =
      rec (placeStep c (T.modify i fun w => w.begun k t) i d t) i .broken .guard t := by
  rw [beginStep_of_targetFits hstep rec c t htarget, checkGuard_of_not_guardHolds hguard]

/-- A step that does not stand is broken as it begins, the step itself being the current one. -/
theorem beginStep_broken (h : ¬(TargetFits T i d ∧ GuardHolds c.view d)) : ∃ T1,
    beginStep rec c T i k t = rec T1 i .broken (if TargetFits T i d then .guard else .chainLost) t ∧
      (T1.watch i).current = k := by
  by_cases htarget : TargetFits T i d
  · refine ⟨_, by rw [if_pos htarget, beginStep_guard hstep rec c t htarget fun hguard => h ⟨htarget, hguard⟩], ?_⟩
    rw [(placeStep_begun c T i k t d).watch]
  · refine ⟨_, by rw [if_neg htarget, beginStep_chainLost hstep rec c t htarget], ?_⟩
    rw [Table.watch_modify_same]
    rfl

end Begin

/-! ### HOLD and RELEASE (R100, R103, R105) -/

/-- A watch concluded BROKEN rests so through its cascade, and its current step is the failing one (R76, R79). -/
theorem concluder_broken (c : Ctx) (T : Table) (i : Idx) (cause : Cause) (t : Time) :
    ∃ n, (concluder c T i .broken cause t).watch i = { (T.watch i).ended .broken cause t with skipped := n } :=
  ⟨_, (conclusionRecorded c T i .broken cause t (.inl (by decide))).1⟩

theorem Watch.heldNow_of_runs {w : Watch} {r : RunState} (h : w.state = r.toWState) :
    w.heldNow = { w with heldFrom := some r, state := .held } := by
  cases r <;> simp [Watch.heldNow, h, RunState.toWState]

theorem Watch.followTarget_of_step {w : Watch} {d : StepDesc} (h : w.step = some d) : w.followTarget = d.target := by
  obtain ⟨kind, guard, notBefore, notAfter⟩ := d
  unfold Watch.followTarget
  rw [h]
  cases kind <;> rfl

/-- The table in which a released watch begins its step again: its entries have left, and its state is restored
(R103). -/
def releasing (T : Table) (i : Idx) (r : RunState) : Table :=
  (T.leaveLists i).modify i fun w => { w with state := r.toWState, heldFrom := none }

section Releasing

variable {T : Table} {i : Idx} {r : RunState} {d : StepDesc}

theorem releaseWatch_eq_beginStep (h : (T.watch i).heldFrom = some r) (rec : Concluder) (c : Ctx) :
    releaseWatch rec c T i = beginStep rec c (releasing T i r) i (T.watch i).current c.now := by
  have hreleased : ((T.leaveLists i).watch i).releasedNow =
      { (T.leaveLists i).watch i with state := r.toWState, heldFrom := none } := by
    simp [Watch.releasedNow, h]
  rw [releaseWatch_eq, Table.modify, hreleased]
  rfl

theorem releasing_watch : (releasing T i r).watch i = { T.watch i with state := r.toWState, heldFrom := none } := by
  rw [releasing, Table.watch_modify_same, Table.watch_leaveLists]

theorem releasing_watches : (releasing T i r).watches =
    (T.modify i fun w => { w with state := r.toWState, heldFrom := none }).watches := by
  have hleft : (T.leaveLists i).watches = T.watches := (endStep_ends T i).watches
  rw [releasing, Table.modify_watches, Table.modify_watches, Table.watch_leaveLists, hleft]

theorem releasing_deadlines : (releasing T i r).deadlines = T.deadlines := by
  unfold releasing Table.leaveLists
  split <;> rfl

/-- The restored state, like HELD, is not FREE, so a watch that follows itself still may. -/
theorem targetFits_releasing (hheld : (T.watch i).state = .held) :
    TargetFits (releasing T i r) i d ↔ TargetFits T i d := by
  have hleft : TargetFits (T.leaveLists i) i d ↔ TargetFits T i d := by simp [TargetFits]
  rw [← hleft]
  refine targetFits_modify ?_ rfl d
  rw [Table.watch_leaveLists, hheld]
  cases r <;> simp [RunState.toWState]

end Releasing

/-- HOLD on a running watch of the port answers HELD (R100). -/
theorem exec_hold {p : Port} {b : Byte} {i : Idx} {s : State} {r : RunState} (ho : Offered s p (.hold p b))
    (hn : Names s p b i [r.toWState]) : exec (.hold p b) s =
      .next (s.engineAnswers p (s.engine.withTable (holdWatch s.engine.table i)) (.ok [5])) := by
  refine exec_onWatch ho hn (by cases r <;> decide) rfl (Prod.ext rfl ?_)
  have hheld : ((holdWatch s.engine.table i).watch i).state = .held := by
    rw [watch_holdWatch, if_pos rfl]; rfl
  exact congrArg (fun st : WState => Response.ok [st.code]) hheld

/-- RELEASE on a HELD watch of the port answers with the state the release leaves it in (R105). -/
theorem exec_release {p : Port} {b : Byte} {i : Idx} {s : State} (ho : Offered s p (.release p b))
    (hn : Names s p b i [.held]) {T' : Table} {st : WState}
    (hT' : releaseWatch (concluder s.ctx) s.ctx s.engine.table i = T') (hst : (T'.watch i).state = st) :
    exec (.release p b) s = .next (s.engineAnswers p (s.engine.withTable T') (.ok [st.code])) := by
  subst hT' hst
  exact exec_onWatch ho hn (by decide) rfl rfl

/-- Settles O24: a hold writes two fields and drops the deadline; a release is the begin of the current step on the
table that the watch's entries have left (R100, R103). -/
theorem holdSuspendsReleaseRestarts : Obligations.HoldSuspendsReleaseRestarts := by
  constructor
  · intro p b i s ho r hn
    have hstate : (s.engine.watch i).state = r.toWState := List.mem_singleton.1 hn.2.2
    have hheld : s.engine.table.modify i Watch.heldNow =
        s.engine.table.modify i fun w => { w with heldFrom := some r, state := .held } :=
      congrArg (s.engine.table.setWatch i) (Watch.heldNow_of_runs hstate)
    rw [exec_hold ho hn, holdWatch, hheld]
    rfl
  · intro p b i s r d ho hn hfrom hstep
    have hheld : (s.engine.watch i).state = .held := List.mem_singleton.1 hn.2.2
    have hfits : TargetFits (releasing s.engine.table i r) i d ↔ TargetFits s.engine.table i d :=
      targetFits_releasing hheld
    have hstep' : ((releasing s.engine.table i r).watch i).steps[(s.engine.watch i).current]? = some d := by
      rw [releasing_watch]; exact hstep
    have hrelease := releaseWatch_eq_beginStep hfrom (concluder s.ctx) s.ctx
    refine ⟨fun htarget hguard => ?_, fun hbroken => ?_⟩
    · have begun := beginStep_begun hstep' (concluder s.ctx) s.ctx s.time.now (hfits.2 htarget) hguard
      have left : StepEnded s.engine.table (endStep s.engine.table i) i := endStep_ends _ i
      refine ⟨_, _, exec_release ho hn hrelease ?_, begun, releasing_watches, left.lines, ?_, releasing_deadlines,
        left.paths⟩
      · exact congrArg Watch.state (begun.watch.trans (by rw [releasing_watch]))
      · have htarget : (s.engine.table.watch i).followTarget = d.target := Watch.followTarget_of_step hstep
        rw [← htarget]
        exact left.followers
    · obtain ⟨T1, hT1, hcurrent⟩ := beginStep_broken hstep' (concluder s.ctx) s.ctx s.time.now
        fun h => hbroken (h.imp_left hfits.1)
      obtain ⟨n, hconcluded⟩ := concluder_broken s.ctx T1 i
        (if TargetFits s.engine.table i d then .guard else .chainLost) s.time.now
      simp only [hfits] at hT1
      refine ⟨_, exec_release ho hn (hrelease.trans hT1) (congrArg Watch.state hconcluded), ?_⟩
      rw [hconcluded]
      exact ⟨rfl, rfl, congrArg some hcurrent, rfl, rfl⟩

end Sys2Proof.Machine

/-! PROOFS. Sweeps: a stopped sweep (O33), the requests of a running one (O31) and its visits (O32). -/

namespace Sys2Proof.Machine

open Sys2Proof

/-! ### A sweep's record, and the end of a sweep (R108, R109, R117) -/

/-- The engine with a port's sweep record emptied. -/
def Engine.sweepDone (e : Engine) (p : Port) : Engine := { e with sweeps := e.sweeps.set p SweepRecord.empty }

/-- The engine with a port's sweep that goes on, no stop requested. -/
def Engine.sweepGoesOn (e : Engine) (p : Port) (w : Sweep) : Engine :=
  { e with sweeps := e.sweeps.set p { run := some w, stop := false } }

/-- A sweep that ends in the happening that takes its request answers with its record emptied. -/
theorem finish_sweepDone (p : Port) (s : State) (e : Engine) (r : Response) :
    finish p (((s.pass p).setEngine (e.served p)).setSweep p SweepRecord.empty, some r) =
      s.engineAnswers p (e.sweepDone p) r :=
  State.pass_setEngine_complete s p ((e.sweepDone p).served p) r rfl

/-- A sweep that goes on has its next request waiting at its port. -/
theorem finish_sweepGoesOn {p : Port} (s : State) {e : Engine} (hstop : (e.sweeps.get p).stop = false) (w : Sweep) :
    let s1 := (s.pass p).setEngine (e.served p)
    let s2 := s1.setSweep p { s1.sweep p with run := some w }
    finish p (s2.setPort p { s2.port p with request := some .visit }, none) =
      s.engineTook p (e.sweepGoesOn p w) (some .visit) := by
  simp [finish, State.engineTook, Engine.sweepGoesOn, Engine.served, State.setSweep, State.setEngine, State.pass,
    State.setPort, State.port, State.sweep, hstop]

/-! ### The taking of a sweep's request -/

theorem State.granted_iff (s : State) (p : Port) :
    s.granted p = true ↔ (s.port (otherPort p)).request = none ∨ s.engine.lastServed = otherPort p := by
  simp [State.granted]

theorem State.sweepWaits_iff (s : State) (p : Port) : s.sweepWaits p = true ↔
    (∃ c, (s.port p).inExec = some c ∧ c.isSweep = true) ∧ (s.port p).request.isSome = true ∧ s.granted p = true := by
  simp [State.sweepWaits, Option.isSome_iff_ne_none, Option.any_eq_true, and_assoc]

/-- Every sweep command is taken at the engine, and with the stop request present its taking is the stop (R108,
R117). -/
theorem exec_sweep {c : Instr} {p : Port} (hsweep : c.isSweep = true) (hissuer : c.issuer = some p) :
    ∃ body, (∀ s, exec c s = atEngine p c s body) ∧
      ∀ s, (s.sweep p).stop = true → body s = stopSweep p s := by
  cases c with
  | armGroup q g | holdGroup q g | releaseGroup q g | cancelGroup q g =>
    obtain rfl : q = p := Option.some.inj hissuer
    exact ⟨startGroup q _ g, fun _ => rfl, fun s h => if_pos h⟩
  | clearOwned q =>
    obtain rfl : q = p := Option.some.inj hissuer
    exact ⟨fun s => if (s.sweep q).stop then stopSweep q s else startSweep q .clear none s, fun _ => rfl,
      fun s h => if_pos h⟩
  | _ => cases hsweep

/-- The counts a sweep record has reached: none before its first visit (R117). -/
def SweepRecord.counts (r : SweepRecord) : List Byte := r.run.elim [0, 0] Sweep.counts

/-- A sweep stopped as its waiting request is taken ends ABORTED with the counts of its record. -/
theorem finish_stopSweep (p : Port) (s : State) : finish p (stopSweep p (s.pass p)) =
    s.engineAnswers p (s.engine.sweepDone p) { status := .aborted, payload := (s.sweep p).counts } := by
  have hcounts : stopSweep p (s.pass p) = ((s.pass p).setSweep p SweepRecord.empty,
      some { status := .aborted, payload := ((s.pass p).sweep p).counts }) := by
    unfold stopSweep SweepRecord.counts
    cases ((s.pass p).sweep p).run <;> rfl
  rw [hcounts]
  exact finish_sweepDone p s s.engine _

/-- Settles O33: each row that commands the taking of a stopped sweep's request is the one stop (R117). -/
theorem sweepStop : Obligations.SweepStop := by
  intro p c s hexec hsweep hissuer hstop hgrant counts stopped
  have hwaits (h : (s.port p).request.isSome = true) : s.sweepWaits p = true :=
    (s.sweepWaits_iff p).2 ⟨⟨c, hexec, hsweep⟩, h, (s.granted_iff p).2 hgrant⟩
  have hstopped : finish p (stopSweep p (s.pass p)) = stopped := by
    have hcounts : (s.sweep p).counts = counts := by
      unfold counts SweepRecord.counts
      cases (s.sweep p).run <;> rfl
    rw [finish_stopSweep, hcounts]
    rfl
  rw [← hstopped]
  refine ⟨fun h => ?_, fun h => ?_, fun h => ?_⟩
  · exact if_pos (by simp [hwaits h, hstop])
  · exact (if_pos (by simp [hwaits (h ▸ rfl), h])).trans (if_pos hstop)
  · obtain ⟨body, hbody, hstops⟩ := exec_sweep hsweep hissuer
    rw [hbody, atEngine_taken ⟨hexec, h, hgrant⟩, hstops (s.pass p) hstop]

/-! ### The members of a sweep, and the taking of its request with no stop (R108, R109) -/

theorem isMember_iff {T : Table} {p : Port} {g : Option Group} {i : Idx} : isMember T p g i = true ↔
    (T.watch i).state ≠ .free ∧ (T.watch i).owner = some p ∧ ∀ g', g = some g' → (T.watch i).group = some g' := by
  cases g <;> simp [isMember, and_assoc]

/-- A group command on a group there is starts its sweep. -/
theorem startGroup_indexByte (p : Port) (kind : SweepKind) (g : Group) {s : State} (hstop : (s.sweep p).stop = false) :
    startGroup p kind (indexByte g) s = startSweep p kind (some g) s := by
  simp [startGroup, hstop, (indexOf_eq_some (by decide) _ g).2 rfl]

/-- A group above 7 is refused (R108). -/
theorem startGroup_badGroup (p : Port) (kind : SweepKind) {g : Byte} {s : State} (hstop : (s.sweep p).stop = false)
    (hg : 7 < g.toNat) : startGroup p kind g s = (s, some (.refuse .badArgument)) := by
  have hnone : indexOf 8 g = none := dif_neg (by omega)
  simp [startGroup, hstop, hnone]

/-- The first request of a sweep command, taken with no stop request, starts its sweep. -/
theorem exec_sweepCommand {p : Port} {kind : SweepKind} {group : Option Group} {c : Instr}
    (h : sweepCommand p kind group = some c) : ∃ body, (∀ s, exec c s = atEngine p c s body) ∧
      ∀ s, (s.sweep p).stop = false → body s = startSweep p kind group s := by
  cases kind <;> cases group <;> cases h
  case arm.some g | hold.some g | release.some g | cancel.some g =>
    exact ⟨startGroup p _ (indexByte g), fun _ => rfl, fun _ hstop => startGroup_indexByte p _ g hstop⟩
  case clear.none =>
    exact ⟨fun s => if (s.sweep p).stop then stopSweep p s else startSweep p .clear none s, fun _ => rfl,
      fun _ hstop => if_neg (by simp [hstop])⟩

/-- Either request of a sweep, taken with no stop request, is one happening of the sweep (R109). -/
theorem exec_sweepTaken {s : State} {p : Port} {c : Instr} {w : Sweep} (h : SweepTaken s p c w) :
    exec c s = .next (finish p (sweepHappening p w (s.pass p))) := by
  cases h with
  | first c kind group hc hoffered hstop =>
    obtain ⟨body, hbody, hstarts⟩ := exec_sweepCommand hc
    rw [hbody, atEngine_taken hoffered, hstarts (s.pass p) hstop]
    rfl
  | visit c w hexec hsweep hrequest hgrant hstop hrun =>
    have hwaits : s.sweepWaits p = true :=
      (s.sweepWaits_iff p).2 ⟨⟨c, hexec, hsweep⟩, hrequest ▸ rfl, (s.granted_iff p).2 hgrant⟩
    simp [exec, execSweepVisit, hwaits, hrequest, hstop, hrun]

theorem SweepTaken.stop_eq {s : State} {p : Port} {c : Instr} {w : Sweep} (h : SweepTaken s p c w) :
    (s.sweep p).stop = false := by
  cases h <;> assumption

/-! ### A visit, and what the happening makes of it (R109, R116) -/

/-- A visit of this kind affects a member with this record (R111 to R114). -/
def SweepKind.affects (kind : SweepKind) (c : Ctx) (w : Watch) : Bool :=
  match kind with
  | .arm => w.state = .idle && linesEnabled c.view w
  | .hold => w.runs
  | .release => w.state = .held
  | .cancel => w.live
  | .clear => true

/-- The engine after a visit of this kind to a member that it affects. -/
def SweepKind.effect (kind : SweepKind) (c : Ctx) (e : Engine) (i : Idx) : Engine :=
  match kind with
  | .arm => e.withTable (armWatch (concluder c) c e.table i c.now)
  | .hold => e.withTable (holdWatch e.table i)
  | .release => e.withTable (releaseWatch (concluder c) c e.table i)
  | .cancel => e.withTable (concluder c e.table i .cancelled .host c.now)
  | .clear => clearMember e i

theorem visit_of_affects {kind : SweepKind} {c : Ctx} {e : Engine} {i : Idx} (h : kind.affects c (e.watch i) = true) :
    visit kind c e i = (kind.effect c e i, true) := by
  cases kind with
  | arm | hold | cancel => exact if_pos h
  | release => exact if_pos (of_decide_eq_true h)
  | clear => rfl

theorem visit_of_not_affects {kind : SweepKind} {c : Ctx} {e : Engine} {i : Idx}
    (h : kind.affects c (e.watch i) = false) : visit kind c e i = (e, false) := by
  cases kind with
  | arm | hold | cancel => exact if_neg (Bool.not_eq_true _ ▸ h)
  | release => exact if_neg (of_decide_eq_false h)
  | clear => cases h

/-- A visit does not look at the port last served. -/
theorem visit_served (kind : SweepKind) (c : Ctx) (e : Engine) (p : Port) (i : Idx) :
    visit kind c (e.served p) i = ((visit kind c e i).1.served p, (visit kind c e i).2) := by
  cases h : kind.affects c (e.watch i) with
  | false => rw [visit_of_not_affects (e := e.served p) h, visit_of_not_affects h]
  | true =>
    rw [visit_of_affects (e := e.served p) h, visit_of_affects h]
    cases kind <;> rfl

/-- A visit leaves the sweep records. -/
theorem visit_sweeps (kind : SweepKind) (c : Ctx) (e : Engine) (i : Idx) : (visit kind c e i).1.sweeps = e.sweeps := by
  cases h : kind.affects c (e.watch i) with
  | false => rw [visit_of_not_affects h]
  | true => rw [visit_of_affects h]; cases kind <;> rfl

section Happening

variable {s : State} {p : Port} {w : Sweep} {i : Idx}

/-- With no member left the sweep completes with the counts it has. -/
theorem finish_sweepHappening_done (h : nextMember s.engine.table p w.group w.next = none) :
    finish p (sweepHappening p w (s.pass p)) = s.engineAnswers p (s.engine.sweepDone p) (.ok w.counts) := by
  have h' : nextMember (s.pass p).engine.table p w.group w.next = none := h
  simp only [sweepHappening, h']
  exact finish_sweepDone p s s.engine _

/-- The visit to the last member completes the sweep. -/
theorem finish_sweepHappening_last (h : nextMember s.engine.table p w.group w.next = some i)
    (hlast : nextMember (visit w.kind s.ctx s.engine i).1.table p w.group (i.val + 1) = none) :
    finish p (sweepHappening p w (s.pass p)) =
      s.engineAnswers p ((visit w.kind s.ctx s.engine i).1.sweepDone p)
        (.ok (w.visited i (visit w.kind s.ctx s.engine i).2).counts) := by
  have h' : nextMember (s.pass p).engine.table p w.group w.next = some i := h
  have hv : visit w.kind (s.pass p).ctx (s.pass p).engine i = _ := visit_served w.kind s.ctx s.engine p i
  have hlast' : nextMember ((visit w.kind s.ctx s.engine i).1.served p).table p w.group (i.val + 1) = none := hlast
  simp only [sweepHappening, h', hv, Sweep.visited, hlast']
  exact finish_sweepDone p s _ _

/-- With a further member found the sweep places its next request. -/
theorem finish_sweepHappening_more {j : Idx} (hstop : (s.sweep p).stop = false)
    (h : nextMember s.engine.table p w.group w.next = some i)
    (hmore : nextMember (visit w.kind s.ctx s.engine i).1.table p w.group (i.val + 1) = some j) :
    finish p (sweepHappening p w (s.pass p)) =
      s.engineTook p ((visit w.kind s.ctx s.engine i).1.sweepGoesOn p
        (w.visited i (visit w.kind s.ctx s.engine i).2)) (some .visit) := by
  have h' : nextMember (s.pass p).engine.table p w.group w.next = some i := h
  have hv : visit w.kind (s.pass p).ctx (s.pass p).engine i = _ := visit_served w.kind s.ctx s.engine p i
  have hmore' : nextMember ((visit w.kind s.ctx s.engine i).1.served p).table p w.group (i.val + 1) = some j := hmore
  have hstop' : ((visit w.kind s.ctx s.engine i).1.sweeps.get p).stop = false := by rw [visit_sweeps]; exact hstop
  simp only [sweepHappening, h', hv, Sweep.visited, hmore']
  exact finish_sweepGoesOn s hstop' _

end Happening

/-- Settles O31: a request taken is one happening of the sweep, whose two searches decide what it answers. -/
theorem sweepRequest : Obligations.SweepRequest := by
  constructor
  · intro p c w s htaken member counts done
    have hmember (T : Table) (j : Idx) : isMember T p w.group j = false ↔ ¬member T j := by
      rw [← Bool.not_eq_true, isMember_iff]
    rw [exec_sweepTaken htaken]
    refine ⟨fun hnone => ?_, fun i hnext hi hfirst => ?_⟩
    · rw [finish_sweepHappening_done ((nextMember_eq_none ..).2 fun i h => (hmember _ i).2 (hnone i h))]
      rfl
    · intro e yes a k
      have hfound : nextMember s.engine.table p w.group w.next = some i :=
        (nextMember_eq_some ..).2 ⟨hnext, isMember_iff.2 hi, fun j hj h => (hmember _ j).2 (hfirst j hj h)⟩
      have hrest : nextMember e.table p w.group (i.val + 1) = none ↔ ∀ j > i, ¬member e.table j :=
        (nextMember_eq_none ..).trans (forall₂_congr fun j _ => hmember _ j)
      refine ⟨fun hlast => ?_, fun ⟨j, hj, hm⟩ => ?_⟩
      · rw [finish_sweepHappening_last hfound (hrest.2 hlast)]
        rfl
      · obtain ⟨l, hmore⟩ := Option.ne_none_iff_exists'.1 fun h => hrest.1 h j hj hm
        rw [finish_sweepHappening_more htaken.stop_eq hfound hmore]
        rfl
  · intro p g c s hg hc hoffered hstop
    obtain rfl | rfl | rfl | rfl : c = .armGroup p g ∨ c = .holdGroup p g ∨ c = .releaseGroup p g ∨
      c = .cancelGroup p g := by simpa using hc
    all_goals exact atEngine_refused hoffered (startGroup_badGroup p _ (s := s.pass p) hstop hg)

/-! ### A visit as the single command (R111 to R113) -/

/-- A command on a watch of the port is its own effect where it is taken from the watch's state, and else refused. -/
theorem onWatch_owned {e : Engine} {p : Port} {b : Byte} {i : Idx} (hb : b.toNat = i.val)
    (hfree : (e.watch i).state ≠ .free) (howner : (e.watch i).owner = some p) (takenFrom : WState → Bool)
    (k : Idx → Engine × Response) : onWatch e p b true takenFrom k =
      if takenFrom (e.watch i).state then k i else (e, .refuse .stateConflict) := by
  split
  · next h => exact onWatch_named hb hfree howner h true k
  · next h =>
    have hlt : b.toNat < 64 := hb ▸ i.isLt
    have hi : (⟨b.toNat, hlt⟩ : Idx) = i := Fin.ext hb
    simp [onWatch, checkWatch, hlt, hi, hfree, howner, h]

/-- A command that is the visit's effect and OK on a member the visit affects, and refused with no change on any
other. -/
theorem visit_eq_single {kind : SweepKind} {c : Ctx} {e : Engine} {i : Idx} {single : Engine × Response}
    (heffect : kind.affects c (e.watch i) = true → ∃ payload, single = (kind.effect c e i, .ok payload))
    (hrefused : kind.affects c (e.watch i) = false → ∃ st, st ≠ .ok ∧ single = (e, .refuse st)) :
    visit kind c e i = (single.1, decide (single.2.status = .ok)) := by
  cases h : kind.affects c (e.watch i) with
  | true =>
    obtain ⟨payload, rfl⟩ := heffect h
    exact visit_of_affects h
  | false =>
    obtain ⟨st, hst, rfl⟩ := hrefused h
    rw [visit_of_not_affects h, decide_eq_false (show (Response.refuse st).status ≠ .ok from hst)]

/-- The same for a command whose test of the watch's state is the whole of what the visit asks. -/
theorem visit_eq_onWatch {kind : SweepKind} {c : Ctx} {e : Engine} {p : Port} {b : Byte} {i : Idx}
    {takenFrom : WState → Bool} {k : Idx → Engine × Response} (hb : b.toNat = i.val)
    (hfree : (e.watch i).state ≠ .free) (howner : (e.watch i).owner = some p)
    (haffects : kind.affects c (e.watch i) = takenFrom (e.watch i).state)
    (hk : ∃ payload, k i = (kind.effect c e i, .ok payload)) :
    visit kind c e i = ((onWatch e p b true takenFrom k).1,
      decide ((onWatch e p b true takenFrom k).2.status = .ok)) := by
  have hsingle := onWatch_owned hb hfree howner takenFrom k
  rw [← haffects] at hsingle
  refine visit_eq_single (fun h => ?_) fun h => ⟨.stateConflict, by decide, ?_⟩
  · obtain ⟨payload, hpayload⟩ := hk
    exact ⟨payload, by rw [hsingle, if_pos h, hpayload]⟩
  · rw [hsingle, if_neg (by simp [h])]

/-- An ARM visit asks for enabled lines too, as ARM does on an IDLE watch. -/
theorem visitArm_eq_armAt {c : Ctx} {e : Engine} {p : Port} {b : Byte} {i : Idx} (hb : b.toNat = i.val)
    (hfree : (e.watch i).state ≠ .free) (howner : (e.watch i).owner = some p) :
    visit .arm c e i = ((armAt p b c e).1, decide ((armAt p b c e).2.status = .ok)) := by
  have hsingle : armAt p b c e = _ := onWatch_owned hb hfree howner _ _
  have haffects : SweepKind.arm.affects c (e.watch i) =
      (decide ((e.watch i).state = .idle) && linesEnabled c.view (e.watch i)) := rfl
  refine visit_eq_single (fun h => ?_) fun h => ?_
  · obtain ⟨hidle, hlines⟩ := (Bool.and_eq_true _ _).mp (haffects ▸ h)
    exact ⟨_, by rw [hsingle, if_pos hidle, if_pos hlines]; rfl⟩
  · by_cases hidle : (e.watch i).state = .idle
    · have hlines : linesEnabled c.view (e.watch i) = false := by simpa [haffects, hidle] using h
      exact ⟨.lineDisabled, by decide, by simp [hsingle, hidle, hlines]⟩
    · exact ⟨.stateConflict, by decide, by simp [hsingle, hidle]⟩

/-! ### The visit of CLEAR_OWNED (R114, R115) -/

/-- The emptying of a watch's follower list touches no other list. -/
theorem Table.followersOf_clearFollowers (T : Table) (t x : Idx) :
    (T.clearFollowers t).followersOf x = if x = t then [] else T.followersOf x := by
  by_cases h : x = t
  · subst h; simp [Table.followersOf]
  · have h' : t.val ≠ x.val := fun e => h (Fin.ext e.symm)
    simp [Table.followersOf, Vector.getElem_set_ne, h, h']

theorem clearMember_watch (e : Engine) (i j : Idx) :
    (clearMember e i).watch j = if j = i then Watch.free else e.watch j := by
  split
  · next h => subst h; exact Table.watch_setWatch_same _ _ _
  · next h => exact (Table.watch_setWatch_ne _ _ h).trans (watch_endStep e.table i j)

/-- Settles O32: the single commands agree with their visits, and a CLEAR_OWNED visit is the end of the member's step
and its freeing. -/
theorem sweepVisits : Obligations.SweepVisits := by
  constructor
  · intro p c e i b hb hfree howner agrees
    refine ⟨visitArm_eq_armAt hb hfree howner, visit_eq_onWatch hb hfree howner rfl ⟨_, rfl⟩,
      visit_eq_onWatch hb hfree howner rfl ⟨_, rfl⟩, visit_eq_onWatch hb hfree howner rfl ⟨_, rfl⟩⟩
  · intro c e i
    have ended : StepEnded e.table (endStep e.table i) i := endStep_ends e.table i
    obtain ⟨hout, hnotice⟩ := ended.paths
    refine ⟨clearMember e i, rfl, ?_, rfl, clearMember_watch e i, ended.lines, fun x => ?_, ended.deadlines, ?_, ?_,
      rfl, rfl, rfl⟩
    · exact congrArg (fun w => e.freeSlots + w.steps.length) (watch_endStep e.table i i)
    · exact (Table.followersOf_clearFollowers _ i x).trans (if_congr Iff.rfl rfl (ended.followers x))
    · exact congrArg (· ++ [.purge i]) hout
    · exact congrArg (· ++ [.purge i]) hnotice

end Sys2Proof.Machine

/-! PROOFS. Every command answers a next state, and one that is not taken changes nothing (O2). -/

namespace Sys2Proof.Machine

open Sys2Proof

/-! ### Every command answers a next state that keeps the queue (O2) -/

/-- The outcome is a next state with the queue of `s`. -/
def Answers (s : State) (o : Host.Outcome State Fault Refusal) : Prop := ∃ t, o = .next t ∧ t.pending = s.pending

theorem Answers.next {s t : State} (h : t.pending = s.pending) : Answers s (.next t) := ⟨t, rfl, h⟩

theorem Answers.same (s : State) : Answers s (.next s) := .next rfl

theorem finish_pending (p : Port) (x : State × Option Response) : (finish p x).pending = x.1.pending := by
  obtain ⟨t, r⟩ := x
  cases r <;> rfl

theorem State.reply_pending (s : State) (dest : Option Port) (r : Response) : (s.reply dest r).pending = s.pending := by
  cases dest <;> rfl

theorem State.refclks_pending (n : Nat) (s : State) : (s.refclks n).pending = s.pending := by
  rw [State.refclks_only]

/-! ### Host commands: at the engine, or at another block (R187) -/

/-- The happening of a command leaves the queue. -/
def KeepsQueue {α : Type} (body : State → State × α) : Prop := ∀ s, (body s).1.pending = s.pending

theorem sweepHappening_keepsQueue (p : Port) (w : Sweep) : KeepsQueue (sweepHappening p w) := by
  intro s
  unfold sweepHappening
  split
  · rfl
  · dsimp only
    split <;> rfl

theorem startGroup_keepsQueue (p : Port) (kind : SweepKind) (g : Byte) : KeepsQueue (startGroup p kind g) := by
  intro s
  unfold startGroup
  split
  · rfl
  · split
    · exact sweepHappening_keepsQueue p _ s
    · rfl

theorem setLineAt_keepsQueue (p : Port) (line enable polarity filter : Byte) :
    KeepsQueue (setLineAt p line enable polarity filter) := by
  intro s
  unfold setLineAt
  split
  · split
    · rfl
    · split <;> rfl
  · rfl

theorem forwardOutput_keepsQueue (r : Option OutReq) : KeepsQueue (forwardOutput r) := by
  intro s
  cases r <;> rfl

/-- A command that is not passed directly is taken by the engine. -/
theorem exec_atEngine {c : Instr} {p : Port} (hissuer : c.issuer = some p) (hidentify : c ≠ .identify p)
    (hdirect : c.isDirect = false) (s : State) : ∃ body, exec c s = atEngine p c s body ∧ KeepsQueue body := by
  cases c with
  | armGroup q g | holdGroup q g | releaseGroup q g | cancelGroup q g =>
    obtain rfl : q = p := Option.some.inj hissuer
    exact ⟨_, rfl, startGroup_keepsQueue q _ g⟩
  | clearOwned q =>
    obtain rfl : q = p := Option.some.inj hissuer
    simp only [exec, execClearOwned]
    refine ⟨_, rfl, fun s => ?_⟩
    split
    · rfl
    · exact sweepHappening_keepsQueue q _ s
  | setTimebase q divider =>
    obtain rfl : q = p := Option.some.inj hissuer
    refine ⟨setTimebaseAt q divider, rfl, fun s => ?_⟩
    unfold setTimebaseAt
    split
    · rfl
    · split <;> rfl
  | setLine q =>
    obtain rfl : q = p := Option.some.inj hissuer
    exact ⟨_, rfl, setLineAt_keepsQueue q _ _ _ _⟩
  | setOutput q | forceOutput q | releaseOutput q | readOutput q =>
    obtain rfl : q = p := Option.some.inj hissuer
    exact ⟨_, rfl, forwardOutput_keepsQueue _⟩
  | deviceReset q =>
    obtain rfl : q = p := Option.some.inj hissuer
    exact ⟨fun s => (s.deviceReset q, some (.ok [])), rfl, fun _ => rfl⟩
  | identify q => exact absurd (Option.some.inj hissuer ▸ rfl) hidentify
  | timeHold | timeRun | readTime | maskLine | unmaskLine | readLine | readLevels | setSampling | takeNotice
  | peekNotices | ackNotice | setNoticeEnable => cases hdirect
  | sweepVisit | sweepStop | timebaseDividerApply | tick | setLineApply | levelReport | sample | edgeTaken
  | deadlineExpiry | outSet | outClear | outRelease | outputPurge | pulseEnd | setOutputApply | forceOutputApply
  | releaseOutputApply | readOutputApply | noticePost | noticePurge | hardwareReset | command | frameReceived | fetch
  | abort | status | unknownTransferCode => cases hissuer
  | _ =>
    -- The table, definition and run commands change the engine alone and complete in their happening.
    obtain rfl : _ = p := Option.some.inj hissuer
    exact ⟨onEngine _, rfl, fun _ => rfl⟩

theorem onLine_pending (line : Byte) {k : Line → State × Response} {s : State} (h : ∀ l, (k l).1.pending = s.pending) :
    (onLine line k s).1.pending = s.pending := by
  unfold onLine
  split
  · exact h _
  · rfl

/-- A command that is passed directly is taken by its block. -/
theorem exec_atBlock {c : Instr} {p : Port} (hissuer : c.issuer = some p) (hdirect : c.isDirect = true) (s : State) :
    ∃ body, exec c s = atBlock p c s body ∧ KeepsQueue body := by
  cases c with
  | timeHold q | timeRun q =>
    obtain rfl : q = p := Option.some.inj hissuer
    exact ⟨setHold _, rfl, fun _ => rfl⟩
  | readTime q | readLevels q | peekNotices q =>
    obtain rfl : q = p := Option.some.inj hissuer
    simp only [exec, execReadTime, execReadLevels, execPeekNotices]
    exact ⟨_, rfl, fun _ => rfl⟩
  | maskLine q line =>
    obtain rfl : q = p := Option.some.inj hissuer
    refine ⟨maskAt line, rfl, fun s => onLine_pending line fun l => ?_⟩
    dsimp only
    split <;> rfl
  | unmaskLine q line =>
    obtain rfl : q = p := Option.some.inj hissuer
    refine ⟨unmaskAt line, rfl, fun s => onLine_pending line fun l => ?_⟩
    dsimp only
    split <;> rfl
  | readLine q line =>
    obtain rfl : q = p := Option.some.inj hissuer
    simp only [exec, execReadLine]
    exact ⟨_, rfl, fun s => onLine_pending line fun _ => rfl⟩
  | setSampling q divider =>
    obtain rfl : q = p := Option.some.inj hissuer
    refine ⟨setSamplingAt divider, rfl, fun s => ?_⟩
    unfold setSamplingAt
    split <;> rfl
  | takeNotice q =>
    obtain rfl : q = p := Option.some.inj hissuer
    refine ⟨takeNoticeAt q, rfl, fun s => ?_⟩
    unfold takeNoticeAt
    split <;> rfl
  | ackNotice q index =>
    obtain rfl : q = p := Option.some.inj hissuer
    refine ⟨ackNoticeAt q index, rfl, fun s => ?_⟩
    unfold ackNoticeAt
    split <;> rfl
  | setNoticeEnable q enable =>
    obtain rfl : q = p := Option.some.inj hissuer
    refine ⟨setNoticeEnableAt q enable, rfl, fun s => ?_⟩
    unfold setNoticeEnableAt
    split <;> rfl
  | _ => cases hdirect

/-- A host command is taken, or it changes nothing. -/
theorem exec_issued_answers {c : Instr} {p : Port} (hissuer : c.issuer = some p) (hidentify : c ≠ .identify p)
    (s : State) : Answers s (exec c s) := by
  cases hdirect : c.isDirect with
  | true =>
    obtain ⟨body, hbody, hqueue⟩ := exec_atBlock hissuer hdirect s
    rw [hbody]
    rcases atBlock_cases s p c body with ⟨-, h⟩ | ⟨-, h⟩ <;> rw [h]
    · exact .next (hqueue s)
    · exact .same s
  | false =>
    obtain ⟨body, hbody, hqueue⟩ := exec_atEngine hissuer hidentify hdirect s
    rw [hbody]
    rcases atEngine_cases s p c body with ⟨-, h⟩ | ⟨-, h⟩ <;> rw [h]
    · exact .next ((finish_pending ..).trans (hqueue _))
    · exact .same s

/-! ### Transactions on the buses -/

theorem OnlyPort.pending {p : Port} {s t : State} (h : OnlyPort p s t) : t.pending = s.pending := by
  obtain ⟨y, rfl⟩ := h
  rfl

section Transactions

variable {p : Port} {act : State → State} (hact : ∀ s, (act s).pending = s.pending)

include hact

theorem State.codeByte_pending (s : State) : (s.codeByte p act).pending = s.pending := by
  unfold State.codeByte
  dsimp only
  split
  · exact hact _
  · rfl

theorem State.headByte_pending (s : State) (o : Opening) (part : HeadPart) :
    (s.headByte p o act part).pending = s.pending := by
  cases part with
  | whole =>
    unfold State.headByte
    dsimp only
    split
    · rw [(State.shiftStatus_only _ p).pending, State.codeByte_pending hact, (State.openBus_only s p o).pending]
    · rfl
  | opened => exact (State.openBus_only s p o).pending
  | code => exact State.codeByte_pending hact s
  | shifted => exact (State.shiftStatus_only s p).pending

theorem State.transact_pending (s : State) (o : Opening) (part : TransactionPart) :
    (s.transact p o act part).pending = s.pending := by
  cases part with
  | whole n =>
    unfold State.transact
    dsimp only
    split
    · rw [(State.stopBus_only _ p).pending, (State.clockBytes_only _ p n).pending, State.headByte_pending hact]
    · rfl
  | head h => exact State.headByte_pending hact s o h
  | clock n => exact (State.clockBytes_only s p n).pending
  | stop => exact (State.stopBus_only s p).pending

end Transactions

theorem State.beginAbort_pending (p : Port) (s : State) : (s.beginAbort p).pending = s.pending := by
  unfold State.beginAbort
  dsimp only
  split
  · rfl
  · rfl
  · rfl
  · split
    · rfl
    · split <;> rfl

theorem onBus_answers (o : Opening) (fits : FirstByte → Bool) (s : State) {k : Port → State}
    (h : ∀ p, (k p).pending = s.pending) : Answers s (onBus o fits s k) := by
  rcases onBus_cases o fits s k with hk | ⟨p, -, -, hk⟩ <;> rw [hk]
  · exact .same s
  · exact .next (h p)

theorem State.takeCommand_pending (s : State) (p : Port) (c : Instr) : (s.takeCommand p c).pending = s.pending := by
  unfold State.takeCommand
  split <;> rfl

theorem execFrameReceived_answers (p : Port) (bytes : List Byte) (s : State) :
    Answers s (execFrameReceived p bytes s) := by
  unfold execFrameReceived
  dsimp only
  split
  · split
    · split
      · exact .next rfl
      · exact .next rfl
      · exact .next rfl
      · exact .next (State.takeCommand_pending ..)
    · exact .next rfl
  · exact .same s

theorem execIdentify_answers (p : Port) (s : State) : Answers s (execIdentify p s) := by
  unfold execIdentify
  split
  · exact .next (State.takeCommand_pending ..)
  · exact .same s

/-! ### The happenings of the blocks -/

theorem takeEdge_pending (s : State) (l : Line) (e : Edge) : (takeEdge s l e).pending = s.pending := by
  unfold takeEdge
  split <;> rfl

theorem takeReport_pending (s : State) (l : Line) (r : LevelReport) : (takeReport s l r).pending = s.pending := by
  unfold takeReport
  dsimp only
  split <;> rfl

theorem takeAction_answers (kind : OutKind) (s : State) : Answers s (takeAction kind s) := by
  unfold takeAction
  split
  · split
    · exact .next rfl
    · exact .same s
  · exact .same s

/-- A command that no host issues answers, too. -/
theorem exec_happening_answers {c : Instr} (hissuer : c.issuer = none) (s : State) : Answers s (exec c s) := by
  cases c with
  | sweepVisit p =>
    simp only [exec, execSweepVisit]
    split
    · split
      · exact .next (finish_pending ..)
      · split
        · exact .next ((finish_pending ..).trans (sweepHappening_keepsQueue p _ _))
        · exact .same s
    · exact .same s
  | sweepStop p =>
    simp only [exec, execSweepStop]
    split
    · exact .next (finish_pending ..)
    · exact .same s
  | timebaseDividerApply =>
    simp only [exec, execTimebaseDividerApply]
    split
    · exact .next (State.reply_pending ..)
    · exact .same s
  | tick =>
    simp only [exec, execTick]
    split
    · exact .next (State.refclks_pending ..)
    · exact .same s
  | levelReport l =>
    simp only [exec, execLevelReport]
    split
    · exact .next ((State.reply_pending ..).trans (takeReport_pending ..))
    · exact .same s
  | sample pins => exact .next (State.refclks_pending ..)
  | edgeTaken l =>
    simp only [exec, execEdgeTaken]
    split
    · exact .next (takeEdge_pending ..)
    · exact .same s
  | deadlineExpiry =>
    simp only [exec, execDeadlineExpiry]
    split
    · split
      · exact .next rfl
      · exact .same s
    · exact .same s
  | outSet | outClear | outRelease => exact takeAction_answers _ s
  | setLineApply | outputPurge | pulseEnd | setOutputApply | forceOutputApply | releaseOutputApply | readOutputApply
  | noticePost | noticePurge =>
    simp only [exec, execSetLineApply, execOutputPurge, execPulseEnd, execSetOutputApply, execForceOutputApply,
      execReleaseOutputApply, execReadOutputApply, execNoticePost, execNoticePurge]
    split
    · exact .next rfl
    · exact .same s
  | hardwareReset addr => exact .next rfl
  | command t =>
    simp only [exec, execCommand]
    refine onBus_answers _ _ s fun p => ?_
    exact State.headByte_pending (fun s => (State.beginFrame_only p s).pending) s _ _
  | frameReceived p bytes => exact execFrameReceived_answers p bytes s
  | fetch p o part =>
    simp only [exec, execFetch]
    refine onBus_answers _ _ s fun q => ?_
    exact State.transact_pending (fun s => (State.beginFetch_only q s).pending) s _ _
  | abort t =>
    simp only [exec, execAbort]
    refine onBus_answers _ _ s fun p => ?_
    exact State.transact_pending (State.beginAbort_pending p) s _ _
  | status o part =>
    simp only [exec, execStatus]
    refine onBus_answers _ _ s fun p => ?_
    exact State.transact_pending (fun _ => rfl) s _ _
  | unknownTransferCode o part =>
    simp only [exec, execUnknownTransferCode]
    refine onBus_answers _ _ s fun p => ?_
    exact State.transact_pending (fun s => State.setPort_pending s p _) s _ _
  | _ => cases hissuer

theorem exec_answers (c : Instr) (s : State) : Answers s (exec c s) := by
  cases hissuer : c.issuer with
  | none => exact exec_happening_answers hissuer s
  | some p =>
    by_cases hidentify : c = .identify p
    · subst hidentify
      exact execIdentify_answers p s
    · exact exec_issued_answers hissuer hidentify s

/-! ### A command that is not taken (R185, R191) -/

/-- The arbiter holds this port's request back: the other port's waits too, and this port was last served (R191). -/
def State.HeldBack (s : State) (p : Port) : Prop :=
  (s.port (otherPort p)).request.isSome = true ∧ s.engine.lastServed = p

theorem State.HeldBack.granted_eq_false {s : State} {p : Port} (h : s.HeldBack p) : s.granted p = false :=
  (s.granted_eq_false p).2 h

/-- A command whose first request does not wait, or is held back, is not offered. -/
theorem not_offered {s : State} {p : Port} (c : Instr) (h : (s.port p).request ≠ some .first ∨ s.HeldBack p) :
    ¬Offered s p c := by
  rintro ⟨-, hrequest, hgrant⟩
  rcases h with hne | hback
  · exact hne hrequest
  · have hgranted := (s.granted_iff p).2 hgrant
    simp [hback.granted_eq_false] at hgranted

/-- A sweep's later request that is held back does not wait for the engine. -/
theorem State.HeldBack.sweepWaits_eq_false {s : State} {p : Port} (h : s.HeldBack p) : s.sweepWaits p = false := by
  simp [State.sweepWaits, h.granted_eq_false]

section NotTaken

variable {c : Instr} {p : Port} {s : State}

theorem exec_of_not_offered (hissuer : c.issuer = some p) (hidentify : c ≠ .identify p) (hdirect : c.isDirect = false)
    (h : ¬Offered s p c) : exec c s = .next s := by
  obtain ⟨body, hbody, -⟩ := exec_atEngine hissuer hidentify hdirect s
  rw [hbody]
  exact (atEngine_cases s p c body).elim (fun ⟨hoffered, _⟩ => absurd hoffered h) fun ⟨_, hsame⟩ => hsame

theorem exec_of_not_inExec (hissuer : c.issuer = some p) (hidentify : c ≠ .identify p)
    (h : (s.port p).inExec ≠ some c) : exec c s = .next s := by
  cases hdirect : c.isDirect with
  | true =>
    obtain ⟨body, hbody, -⟩ := exec_atBlock hissuer hdirect s
    exact hbody.trans (if_neg h)
  | false => exact exec_of_not_offered hissuer hidentify hdirect fun ⟨hexec, _⟩ => h hexec

theorem exec_sweepVisit_of_not_taken (h : (s.port p).request ≠ some .visit ∨ s.HeldBack p) :
    exec (.sweepVisit p) s = .next s := by
  refine if_neg ?_
  rcases h with hne | hback
  · simp [hne]
  · simp [hback.sweepWaits_eq_false]

theorem exec_sweepStop_of_not_taken (h : (s.port p).request = none ∨ s.HeldBack p) :
    exec (.sweepStop p) s = .next s := by
  refine if_neg ?_
  rcases h with hnone | hback
  · simp [State.sweepWaits, hnone]
  · simp [hback.sweepWaits_eq_false]

end NotTaken

/-- Settles O2: a command is taken in one happening, which leaves the queue, or it is not taken and changes nothing. -/
theorem everyCommandAnswers : Obligations.EveryCommandAnswers := by
  intro c s
  obtain ⟨t, ht, hpending⟩ := exec_answers c s
  have same (h : exec c s = .next s) : t = s := Host.Outcome.next.inj (ht.symm.trans h)
  refine ⟨t, ht, hpending, fun p => ⟨fun hissuer hidentify h => same (exec_of_not_inExec hissuer hidentify h),
    fun hissuer hidentify hdirect h => same (exec_of_not_offered hissuer hidentify hdirect (not_offered c h)), ?_, ?_⟩⟩
  · rintro rfl h
    exact same (exec_sweepVisit_of_not_taken h)
  · rintro rfl h
    exact same (exec_sweepStop_of_not_taken h)

end Sys2Proof.Machine

/-! PROOFS. What a cascade sends on the request paths: every post is the snapshot of a conclusion (R83), and no
request of a cascade has a width. -/

namespace Sys2Proof.Machine

open Sys2Proof

/-! ### Sound requests, and a table that sends no others -/

/-- A request of the output path carries no width 0 (R152, R161). -/
def OutReq.Sound : OutReq → Prop
  | .setOutput _ _ _ width _ => width ≠ 0
  | .action _ _ _ | .purge _ | .forceOutput _ _ _ | .releaseOutput _ _ | .readOutput _ _ => True

/-- A request of the notice path carries the snapshot of a conclusion, or none (R166, R167). -/
def NoticeReq.Sound : NoticeReq → Prop
  | .post _ n => SnapshotWf n
  | .purge _ => True

/-- From `T` to `T'` no request has come onto a path but sound ones. -/
structure Sends (T T' : Table) : Prop where
  out : ∀ r ∈ T'.outPath, r ∈ T.outPath ∨ r.Sound
  notice : ∀ r ∈ T'.noticePath, r ∈ T.noticePath ∨ r.Sound

/-- A conclusion procedure that sends sound requests alone, given an outcome with a cause it may carry. -/
def Concluder.Sends (rec : Concluder) : Prop :=
  ∀ T i o cause t, OutcomePair o cause → Machine.Sends T (rec T i o cause t)

namespace Sends

variable {T T' T'' : Table} {i : Idx}

theorem of_paths (hout : T'.outPath = T.outPath) (hnotice : T'.noticePath = T.noticePath) : Sends T T' :=
  ⟨fun _ h => .inl (hout ▸ h), fun _ h => .inl (hnotice ▸ h)⟩

theorem refl (T : Table) : Sends T T := .of_paths rfl rfl

theorem trans (h : Sends T T') (k : Sends T' T'') : Sends T T'' :=
  ⟨fun r hr => (k.out r hr).elim (h.out r) .inr, fun r hr => (k.notice r hr).elim (h.notice r) .inr⟩

/-- An operation that leaves the paths goes before. -/
theorem after (k : Sends T' T'') (hout : T'.outPath = T.outPath) (hnotice : T'.noticePath = T.noticePath) :
    Sends T T'' :=
  (of_paths hout hnotice).trans k

theorem sendOut {r : OutReq} (hr : r.Sound) : Sends T (T.sendOut r) where
  out x hx := (List.mem_append.1 hx).imp_right fun h => by rwa [List.mem_singleton.1 h]
  notice _ hx := .inl hx

theorem sendNotice {r : NoticeReq} (hr : r.Sound) : Sends T (T.sendNotice r) where
  out _ hx := .inl hx
  notice x hx := (List.mem_append.1 hx).imp_right fun h => by rwa [List.mem_singleton.1 h]

theorem foldl {α : Type} {f : Table → α → Table} (h : ∀ T x, Sends T (f T x)) (xs : List α) (T : Table) :
    Sends T (xs.foldl f T) := by
  induction xs generalizing T with
  | nil => exact refl T
  | cons x xs ih => exact (h T x).trans (ih _)

/-- A fold over pairs whose first item is the table. -/
theorem foldlPair {f : Table × Bool → Idx → Table × Bool} (h : ∀ x j, Sends x.1 (f x j).1) (xs : List Idx)
    (x : Table × Bool) : Sends x.1 (xs.foldl f x).1 := by
  induction xs generalizing x with
  | nil => exact refl _
  | cons j xs ih => exact (h x j).trans (ih _)

theorem endStep (T : Table) (i : Idx) : Sends T (endStep T i) :=
  .of_paths (endStep_ends T i).paths.1 (endStep_ends T i).paths.2

theorem addWindow (c : Ctx) (T : Table) (i : Idx) (d : StepDesc) (t : Time) : Sends T (addWindow c T i d t) := by
  unfold Machine.addWindow
  split <;> exact .of_paths rfl rfl

theorem groupDone (w : Idx) (x : Table × Bool) : Sends x.1 (groupDone w x) := by
  unfold Machine.groupDone
  split <;> exact .of_paths rfl rfl

/-! ### Operations that may conclude a watch -/

section

variable {rec : Concluder} (hrec : rec.Sends)

include hrec

theorem checkGuard (c : Ctx) (T : Table) (i : Idx) (d : StepDesc) (t : Time) : Sends T (checkGuard rec c T i d t) := by
  unfold Machine.checkGuard
  split
  · exact addWindow ..
  · split
    · exact (addWindow ..).after rfl rfl
    · exact hrec _ _ _ _ _ (by simp [OutcomePair])

theorem setUpStep (c : Ctx) (T : Table) (i : Idx) (d : StepDesc) (t : Time) : Sends T (setUpStep rec c T i d t) := by
  unfold Machine.setUpStep
  cases d.kind with
  | edge p q k n => cases q <;> exact (checkGuard hrec ..).after rfl rfl
  | span p v mn mx => exact (checkGuard hrec ..).after rfl rfl
  | delay len => exact (checkGuard hrec ..).after rfl rfl
  | follow tgt wanted =>
    dsimp only
    split
    · exact (checkGuard hrec ..).after rfl rfl
    · exact hrec _ _ _ _ _ (by simp [OutcomePair])

theorem beginStep (c : Ctx) (T : Table) (i : Idx) (k : Nat) (t : Time) : Sends T (beginStep rec c T i k t) := by
  unfold Machine.beginStep
  cases (T.watch i).steps[k]? with
  | none => exact .of_paths rfl rfl
  | some d => exact (setUpStep hrec ..).after rfl rfl

theorem armWatch (c : Ctx) (T : Table) (i : Idx) (t : Time) : Sends T (armWatch rec c T i t) :=
  (beginStep hrec ..).after rfl rfl

theorem releaseWatch (c : Ctx) (T : Table) (i : Idx) : Sends T (releaseWatch rec c T i) := by
  unfold Machine.releaseWatch
  cases (T.watch i).followTarget <;> exact (beginStep hrec ..).after rfl rfl

theorem completeStep (c : Ctx) (T : Table) (i : Idx) (t : Time) : Sends T (completeStep rec c T i t) := by
  unfold Machine.completeStep
  refine (endStep T i).trans ?_
  dsimp only
  split
  · exact (beginStep hrec ..).after rfl rfl
  · exact hrec _ _ _ _ _ rfl

theorem judged {k : Table} (hk : Sends T k) (d : StepDesc) (start τ : Time) :
    Sends T (judged rec T i d start τ k) := by
  unfold Machine.judged
  cases judgeWindow d start τ with
  | early => exact hrec _ _ _ _ _ (by simp [OutcomePair])
  | late due => exact hrec _ _ _ _ _ rfl
  | accepted => exact hk

theorem deliver (c : Ctx) (w : Idx) (o : WOutcome) (t : Time) (T : Table) (entry : Idx × BitVec 16) :
    Sends T (deliver rec c w o t T entry) := by
  unfold Machine.deliver
  dsimp only
  split
  · exact refl T
  · split
    · split
      · split
        · refine judged hrec ?_ ..
          split
          · exact completeStep hrec ..
          · exact hrec _ _ _ _ _ (by simp [OutcomePair])
        · exact refl T
      · exact refl T
    · exact refl T

/-- An action sends sound requests, a NOTIFY where its snapshot is that of a conclusion. -/
theorem runAction (c : Ctx) (w : Idx) (t : Time) (T : Table) (a : Action)
    (hsnap : SnapshotWf (snapshotOf w (T.watch w) t)) : Sends T (runAction rec c w t T a) := by
  cases a with
  | notify =>
    unfold Machine.runAction
    dsimp only
    split
    · exact .of_paths rfl rfl
    · exact sendNotice hsnap
  | outSet o | outClear o | outRelease o => exact sendOut trivial
  | arm x =>
    unfold Machine.runAction
    dsimp only
    split
    · exact armWatch hrec ..
    · exact .of_paths rfl rfl
  | cancel x =>
    unfold Machine.runAction
    dsimp only
    split
    · exact hrec _ _ _ _ _ (.inr rfl)
    · exact .of_paths rfl rfl
  | holdGroup g =>
    refine (foldlPair (fun x j => ?_) allWatches (T, false)).trans (groupDone w _)
    unfold holdMember
    split <;> exact .of_paths rfl rfl
  | releaseGroup g =>
    refine (foldlPair (fun x j => ?_) allWatches (T, false)).trans (groupDone w _)
    unfold releaseMember
    split
    · exact releaseWatch hrec ..
    · exact refl _

end

end Sends

/-! ### The actions of a conclusion (R78, R83) -/

/-- A NOTIFY of watch `i`, as the table stands, carries the snapshot of a conclusion. -/
structure Concluded (T : Table) (i : Idx) : Prop where
  state : (T.watch i).state = .concluded
  snapshot : ∀ t, SnapshotWf (snapshotOf i (T.watch i) t)

/-- A conclusion that runs actions leaves a record whose snapshot is its own (R76, R78). -/
theorem recordedTable_concluded {T : Table} {i : Idx} {o : WOutcome} {cause : Cause} (t : Time)
    (ho : (T.watch i).actionsFor o ≠ []) (hcause : OutcomePair o cause) :
    Concluded (recordedTable T i o cause t) i where
  state := recordedTable_state cause t
  snapshot τ := by
    rw [recordedTable_watch, Watch.concludedWith_eq_ended]
    cases o with
    | none | cancelled => exact absurd rfl ho
    | met | missed | broken => constructor <;> simp_all [snapshotOf, Watch.ended]

/-- A watch at rest keeps its snapshot, which does not show the skipped count. -/
theorem Rests.concluded {A : Set Idx} {T T' : Table} {i : Idx} (h : Rests A T T' i) (hi : Concluded T i) :
    Concluded T' i where
  state := h.state.trans hi.state
  snapshot t := by
    rw [h.record]
    exact hi.snapshot t

/-- The actions of a CONCLUDED watch: it rests while they run (R79), so each NOTIFY carries its conclusion. -/
theorem runActions_sends {rec : Concluder} (hset : rec.Settles) (hrec : rec.Sends) (c : Ctx) (t : Time) {i : Idx}
    (acts : List Action) {T : Table} (hi : Concluded T i) : Sends T (acts.foldl (runAction rec c i t) T) := by
  induction acts generalizing T with
  | nil => exact .refl T
  | cons a acts ih =>
    have hstays : Stays {i} T (runAction rec c i t T a) :=
      (runAction_cascades (Set.mem_singleton i) c t a T).stays hset
    exact (Sends.runAction hrec c i t T a (hi.snapshot t)).trans (ih ((hstays i hi.state).concluded hi))

theorem servedTable_sends {rec : Concluder} (hset : rec.Settles) (hrec : rec.Sends) (c : Ctx) (T : Table) (i : Idx)
    {o : WOutcome} {cause : Cause} (t : Time) (hcause : OutcomePair o cause) :
    Sends T (servedTable rec c T i o cause t) := by
  have hrecorded : Sends T (recordedTable T i o cause t) := (Sends.endStep ..).after rfl rfl
  have hacts : Sends (recordedTable T i o cause t) ((((recordedTable T i o cause t).watch i).actionsFor o).foldl
      (runAction rec c i t) (recordedTable T i o cause t)) := by
    rw [recordedTable_watch, Watch.concludedWith_actionsFor]
    by_cases ho : (T.watch i).actionsFor o = []
    · rw [ho]
      exact .refl _
    · exact runActions_sends hset hrec c t _ (recordedTable_concluded t ho hcause)
  exact hrecorded.trans (hacts.trans (Sends.foldl (Sends.deliver hrec c i o t) _ _))

/-- A conclusion sends sound requests alone, if those nested in it do. -/
theorem concludeWith_sends {rec : Concluder} (hset : rec.Settles) (hrec : rec.Sends) (c : Ctx) :
    (concludeWith rec c).Sends := by
  intro T i o cause t hcause
  have hserved := servedTable_sends hset hrec c T i t hcause
  rw [concludeWith_eq]
  split
  · exact hserved.trans ((Sends.beginStep hrec ..).after rfl rfl)
  · exact hserved

/-- So does every conclusion procedure of the model. -/
theorem conclude_sends (c : Ctx) (n : Nat) : (conclude c n).Sends := by
  induction n with
  | zero => exact fun T i o cause t _ => (Sends.endStep ..).after rfl rfl
  | succ n ih => exact concludeWith_sends (conclude_settles c n) ih c

theorem concluder_sends (c : Ctx) : (concluder c).Sends := conclude_sends c _

/-! ### Edges and expiries -/

namespace Sends

section

variable {rec : Concluder} (hrec : rec.Sends)

include hrec

theorem countEdge (c : Ctx) (T : Table) (i : Idx) (stamp : Time) : Sends T (countEdge rec c T i stamp) := by
  unfold Machine.countEdge
  dsimp only
  split
  · exact (completeStep hrec ..).after rfl rfl
  · exact .of_paths rfl rfl

theorem leaveSpan (c : Ctx) (T : Table) (i : Idx) (mn mx : Option Duration) (stamp : Time) :
    Sends T (leaveSpan rec c T i mn mx stamp) := by
  unfold Machine.leaveSpan
  dsimp only
  split
  · exact (hrec _ _ _ _ _ (by simp [OutcomePair])).after rfl rfl
  · split
    · split
      · exact (hrec _ _ _ _ _ (by simp [OutcomePair])).after rfl rfl
      · exact (completeStep hrec ..).after rfl rfl
    · exact (completeStep hrec ..).after rfl rfl

theorem serveTrigger (c : Ctx) (T : Table) (i : Idx) (dir : EdgeDir) (stamp : Time) :
    Sends T (serveTrigger rec c T i dir stamp) := by
  have enterSpan (mx : Option Duration) : Sends T (enterSpan c T i mx stamp) := by
    cases mx <;> exact .of_paths rfl rfl
  unfold Machine.serveTrigger
  dsimp only
  cases (T.watch i).step with
  | none => exact refl T
  | some d =>
    dsimp only
    cases d.kind with
    | edge p q kind n =>
      dsimp only
      split
      · exact judged hrec (countEdge hrec ..) ..
      · exact refl T
    | span p v mn mx =>
      dsimp only
      cases (T.watch i).phase with
      | waitEntry =>
        dsimp only
        split
        · exact judged hrec (enterSpan mx) ..
        · exact refl T
      | inSpan =>
        dsimp only
        split
        · exact refl T
        · exact leaveSpan hrec ..
      | none => exact refl T
    | delay len | follow tgt wanted => exact refl T

theorem serveEntry (c : Ctx) (e : Edge) (T : Table) (x : SnapEntry) : Sends T (serveEntry rec c e T x) := by
  unfold Machine.serveEntry
  dsimp only
  split
  · exact refl T
  · split
    · exact hrec _ _ _ _ _ (by simp [OutcomePair])
    · split
      · exact hrec _ _ _ _ _ (by simp [OutcomePair])
      · split
        · exact serveTrigger hrec ..
        · exact refl T

end

theorem serveLine (c : Ctx) (T : Table) (l : Line) (e : Edge) : Sends T (serveLine c T l e) :=
  foldl (serveEntry (concluder_sends c) c e) _ T

theorem expire (c : Ctx) (T : Table) (d : Deadline) : Sends T (expire c T d) := by
  unfold Machine.expire
  cases d.kind with
  | late => exact concluder_sends c _ _ _ _ _ rfl
  | delayEnd => exact completeStep (concluder_sends c) ..
  | spanLong => exact concluder_sends c _ _ _ _ _ (by simp [OutcomePair])

end Sends

end Sys2Proof.Machine

/-! PROOFS. Every step keeps the counters below their dividers, and the lines, the outputs and the pending notices well
formed (O59): what each operation of the Timebase, the Line Unit, the Output Unit and the Notice Unit keeps, then the
commands block by block. -/

namespace Sys2Proof.Machine

open Sys2Proof

/-! ### What a step keeps -/

/-- Every entry of a pending set stands under its snapshot's index and is the snapshot of a conclusion (R166). -/
def NoticeState.Wf (x : NoticeState) : Prop :=
  ∀ (i : Idx) (n : Notice), x.pending[i] = some n → n.snap.index = i ∧ SnapshotWf n.snap

/-- From `s` to `t` the three invariants of the units stay. -/
structure KeepsUnits (s t : State) : Prop where
  units : UnitsInv s → UnitsInv t
  outputs : OutputsInv s → OutputsInv t
  notices : NoticesInv s → NoticesInv t

/-- The outcome is a next state in which the three invariants of the units stay. -/
def UnitsKept (s : State) (o : Host.Outcome State Fault Refusal) : Prop := ∃ t, o = .next t ∧ KeepsUnits s t

theorem OutputsInv.sends {s t : State} (h : OutputsInv s) (houtputs : ∀ o, OutputWf (t.output o))
    (hsends : Sends s.engine.table t.engine.table) : OutputsInv t :=
  ⟨houtputs, fun p o m w q hr => (hsends.out _ hr).elim (h.forwarded p o m w q) id⟩

theorem NoticesInv.sends {s t : State} (h : NoticesInv s) (hnotices : ∀ p, (t.notice p).Wf)
    (hsends : Sends s.engine.table t.engine.table) : NoticesInv t :=
  ⟨hnotices, fun route n hr => (hsends.notice _ hr).elim (h.posts route n) id⟩

theorem UnitsInv.congr {s t : State} (h : UnitsInv s) (htime : t.time = s.time)
    (hpath : t.dividerPath = s.dividerPath) (hlines : t.lineUnit = s.lineUnit) : UnitsInv t where
  time := htime ▸ h.time
  forwarded := hpath ▸ h.forwarded
  sample := hlines ▸ h.sample
  lines l := by
    have hl : t.line l = s.line l := by rw [State.line, hlines, State.line]
    exact hl ▸ h.lines l

theorem OutputsInv.output_of_eq {s t : State} (h : OutputsInv s) (heq : t.outputs = s.outputs) (o : Output) :
    OutputWf (t.output o) := by
  rw [State.output, heq]
  exact h.outputs o

theorem NoticesInv.notice_of_eq {s t : State} (h : NoticesInv s) (heq : t.notices = s.notices) (p : Port) :
    (t.notice p).Wf := by
  rw [State.notice, heq]
  exact h.entries p

namespace KeepsUnits

variable {s t u : State}

theorem refl (s : State) : KeepsUnits s s := ⟨id, id, id⟩

theorem trans (h : KeepsUnits s t) (k : KeepsUnits t u) : KeepsUnits s u :=
  ⟨k.units ∘ h.units, k.outputs ∘ h.outputs, k.notices ∘ h.notices⟩

/-- A happening of the Timebase or the Line Unit. -/
theorem of_units (h : UnitsInv s → UnitsInv t) (houtputs : t.outputs = s.outputs) (hnotices : t.notices = s.notices)
    (hsends : Sends s.engine.table t.engine.table) : KeepsUnits s t :=
  ⟨h, fun ho => ho.sends (ho.output_of_eq houtputs) hsends, fun hn => hn.sends (hn.notice_of_eq hnotices) hsends⟩

/-- A happening that sends sound requests and changes no unit. -/
theorem of_sends (hsends : Sends s.engine.table t.engine.table) (htime : t.time = s.time)
    (hpath : t.dividerPath = s.dividerPath) (hlines : t.lineUnit = s.lineUnit) (houtputs : t.outputs = s.outputs)
    (hnotices : t.notices = s.notices) : KeepsUnits s t :=
  of_units (fun h => h.congr htime hpath hlines) houtputs hnotices hsends

theorem setPort (s : State) (p : Port) (x : PortState) : KeepsUnits s (s.setPort p x) :=
  of_sends (.refl _) rfl rfl rfl rfl rfl

theorem of_onlyPort {p : Port} (h : OnlyPort p s t) : KeepsUnits s t := by
  obtain ⟨x, rfl⟩ := h
  exact setPort s p x

theorem setEngine (s : State) {e : Engine} (h : Sends s.engine.table e.table) : KeepsUnits s (s.setEngine e) :=
  of_sends h rfl rfl rfl rfl rfl

theorem setView (s : State) (l : Line) (v : LineView) : KeepsUnits s (s.setView l v) := setEngine s (.refl _)

theorem setSweep (s : State) (p : Port) (r : SweepRecord) : KeepsUnits s (s.setSweep p r) := setEngine s (.refl _)

theorem pass (s : State) (p : Port) : KeepsUnits s (s.pass p) := of_sends (.refl _) rfl rfl rfl rfl rfl

theorem complete (s : State) (p : Port) (r : Response) : KeepsUnits s (s.complete p r) := setPort s p _

theorem reply (s : State) (dest : Option Port) (r : Response) : KeepsUnits s (s.reply dest r) := by
  cases dest with
  | none => exact refl s
  | some p => exact complete s p r

theorem finish (p : Port) {x : State × Option Response} (h : KeepsUnits s x.1) : KeepsUnits s (finish p x) := by
  obtain ⟨t, r⟩ := x
  cases r with
  | none => exact h
  | some r => exact h.trans (complete t p r)

end KeepsUnits

namespace UnitsKept

variable {s t : State}

theorem next (h : KeepsUnits s t) : UnitsKept s (.next t) := ⟨t, rfl, h⟩

theorem same (s : State) : UnitsKept s (.next s) := .next (.refl s)

/-- A command of the engine whose happening keeps the units. -/
theorem atEngine (p : Port) (c : Instr) (s : State) {body : State → State × Option Response}
    (h : ∀ s, KeepsUnits s (body s).1) : UnitsKept s (atEngine p c s body) := by
  rcases atEngine_cases s p c body with ⟨-, heq⟩ | ⟨-, heq⟩ <;> rw [heq]
  · exact .next ((KeepsUnits.pass s p).trans (.finish p (h _)))
  · exact same s

/-- A command of the engine that changes the engine alone. -/
theorem onEngine (p : Port) (c : Instr) (s : State) {f : Engine → Engine × Response}
    (h : ∀ e, Sends e.table (f e).1.table) : UnitsKept s (Machine.atEngine p c s (onEngine f)) :=
  atEngine p c s fun s => .setEngine s (h s.engine)

/-- A command of another block whose happening keeps the units. -/
theorem atBlock (p : Port) (c : Instr) (s : State) {body : State → State × Response}
    (h : ∀ s, KeepsUnits s (body s).1) : UnitsKept s (atBlock p c s body) := by
  unfold Machine.atBlock
  split
  · exact .next ((h s).trans (.complete _ p _))
  · exact same s

/-- A transaction whose first byte keeps the units. -/
theorem onBus (o : Opening) (fits : FirstByte → Bool) (s : State) {k : Port → State}
    (h : ∀ p, KeepsUnits s (k p)) : UnitsKept s (onBus o fits s k) := by
  rcases onBus_cases o fits s k with heq | ⟨p, -, -, heq⟩ <;> rw [heq]
  · exact same s
  · exact .next (h p)

end UnitsKept

/-! ### Timebase (R118, R123) -/

theorem Timebase.period_below {t : Timebase} (h : t.partialCount < t.divider.toNat) :
    t.period.partialCount < t.period.divider.toNat := by
  rcases t.period_cases with ⟨-, heq⟩ | ⟨-, hbelow, heq⟩ | ⟨-, -, heq⟩ <;> rw [heq]
  · exact h
  · exact hbelow
  · exact Nat.zero_lt_of_lt h

theorem KeepsUnits.timePeriod (s : State) : KeepsUnits s s.timePeriod :=
  .of_units (fun h => ⟨Timebase.period_below h.time, h.forwarded, h.sample, h.lines⟩) rfl rfl (.refl _)

theorem setHold_keepsUnits (hold : HoldState) (s : State) : KeepsUnits s (setHold hold s).1 :=
  .of_units (fun h => ⟨h.time, h.forwarded, h.sample, h.lines⟩) rfl rfl (.refl _)

theorem setTimebaseAt_keepsUnits (p : Port) (divider : BitVec 16) (s : State) :
    KeepsUnits s (setTimebaseAt p divider s).1 := by
  unfold setTimebaseAt
  split
  · exact .refl s
  · next hdivider =>
    split
    · exact .refl s
    · refine .of_units (fun h => ⟨h.time, fun r hr => ?_, h.sample, h.lines⟩) rfl rfl (.refl _)
      rcases List.mem_append.1 hr with hold | hnew
      · exact h.forwarded r hold
      · rwa [List.mem_singleton.1 hnew]

theorem execTimebaseDividerApply_keepsUnits (s : State) : UnitsKept s (execTimebaseDividerApply s) := by
  unfold execTimebaseDividerApply
  split
  · next r rest hpath =>
    refine .next (.trans ?_ (.reply _ r.reply _))
    refine .of_units (fun h => ⟨?_, fun x hx => ?_, h.sample, h.lines⟩) rfl rfl (.refl _)
    · exact Nat.pos_of_ne_zero fun hzero => h.forwarded r (by simp [hpath]) (BitVec.eq_of_toNat_eq hzero)
    · exact h.forwarded x (by simp [hpath, hx])
  · exact .same s

/-! ### Lines (R134 to R151) -/

theorem State.line_setLine (s : State) (l m : Line) (x : LineState) :
    (s.setLine l x).line m = if m = l then x else s.line m := by
  split
  · next h => subst h; simp [State.line]
  · next h =>
    have hne : l.val ≠ m.val := fun e => h (Fin.ext e.symm)
    simp [State.line, Vector.getElem_set_ne, hne]

theorem KeepsUnits.setLine (s : State) (l : Line) {x : LineState} (hx : LineWf (s.line l) → LineWf x) :
    KeepsUnits s (s.setLine l x) := by
  refine .of_units (fun h => ⟨h.time, h.forwarded, h.sample, fun m => ?_⟩) rfl rfl (.refl _)
  rw [State.line_setLine]
  split
  · exact hx (h.lines l)
  · exact h.lines m

theorem Level.edge_level (v : Level) : v.edge.level = v := by cases v <;> rfl

/-- A full queue keeps its length (R140). -/
theorem enqueue_length_le {q : List Edge} (h : q.length ≤ 2) (e : Edge) : (enqueue q e).length ≤ 2 := by
  unfold enqueue
  split
  · next hroom => rw [List.length_append]; exact hroom
  · cases hlast : q.getLast? with
    | none => exact h
    | some newest =>
      have := List.length_pos_iff.2 (List.ne_nil_of_mem (List.mem_of_getLast? hlast))
      rw [List.length_append, List.length_dropLast, List.length_singleton]
      omega

/-- The newest entry has the kind of the latest edge, queued or dropped (R139, R140). -/
theorem enqueue_getLast? (q : List Edge) (e : Edge) : ∃ a, (enqueue q e).getLast? = some a ∧ a.dir = e.dir := by
  unfold enqueue
  split
  · exact ⟨e, List.getLast?_concat .., rfl⟩
  · next hfull =>
    cases hlast : q.getLast? with
    | none =>
      rw [List.getLast?_eq_none_iff.1 hlast] at hfull
      exact absurd (by decide) hfull
    | some newest => exact ⟨_, List.getLast?_concat .., rfl⟩

namespace LineWf

variable {x : LineState}

/-- An accepted level is that of the newest queued edge (R137). -/
theorem acceptLevel (h : LineWf x) (henable : x.config.enable = true) (v : Level) (now : Time) :
    LineWf (acceptLevel x v now) where
  queue := enqueue_length_le h.queue _
  progress := Nat.zero_le _
  newest e he := by
    obtain ⟨a, ha, hdir⟩ := enqueue_getLast? x.queue { dir := v.edge, stamp := now, lost := false }
    rw [Option.some.inj (he.symm.trans ha), hdir, v.edge_level]
    rfl
  disabled hoff := absurd (henable.symm.trans hoff) (by decide)
  report := h.report

/-- A sample (R137): a progress that rises stays within the filter. -/
theorem sampleLine (h : LineWf x) (pin : Bool) (now : Time) : LineWf (sampleLine x pin now) := by
  unfold Machine.sampleLine
  split
  · next hread =>
    have henable : x.config.enable = true := by simp_all
    dsimp only
    split
    · exact ⟨h.queue, Nat.zero_le _, h.newest, h.disabled, h.report⟩
    · split
      · exact h.acceptLevel henable _ now
      · next hbelow => exact ⟨h.queue, by dsimp only; omega, h.newest, h.disabled, h.report⟩
  · exact h

theorem applyConfig (x : LineState) (cfg : LineConfig) (pin : Bool) (now : Time) (reply : Option Port) :
    LineWf (applyConfig x cfg pin now reply) where
  queue := Nat.zero_le _
  progress := Nat.zero_le _
  newest := by simp [Machine.applyConfig]
  disabled hoff := ⟨by simp_all [Machine.applyConfig, levelAfter], rfl⟩
  report r hr hoff := by
    cases hr
    simp_all [levelAfter]

/-- A line whose head edge is taken keeps its newest edge, if one is left (R139). -/
theorem tail {e : Edge} {rest : List Edge} (h : LineWf x) (hq : x.queue = e :: rest) :
    LineWf { x with queue := rest } where
  queue := by
    have := h.queue
    rw [hq, List.length_cons] at this
    exact Nat.le_of_succ_le this
  progress := h.progress
  newest a ha := h.newest a (by
    rw [hq, List.getLast?_cons, show rest.getLast? = some a from ha]
    rfl)
  disabled hoff := absurd (hq.symm.trans (h.disabled hoff).2) (by simp)
  report := h.report

theorem withoutReport (h : LineWf x) : LineWf { x with report := none } :=
  ⟨h.queue, h.progress, h.newest, h.disabled, by simp⟩

/-- A mask set or cleared begins the filter again (R147, R148). -/
theorem withMask (h : LineWf x) (masked : Bool) : LineWf { x with masked := masked, progress := 0 } :=
  ⟨h.queue, Nat.zero_le _, h.newest, h.disabled, h.report⟩

theorem restarted (h : LineWf x) : LineWf { x with progress := 0 } :=
  ⟨h.queue, Nat.zero_le _, h.newest, h.disabled, h.report⟩

theorem deviceReset (h : LineWf x) : LineWf x.deviceReset where
  queue := Nat.zero_le _
  progress := Nat.zero_le _
  newest := by simp [LineState.deviceReset]
  disabled hoff := ⟨(h.disabled hoff).1, rfl⟩
  report r hr hoff := by
    obtain ⟨r', hr', rfl⟩ := Option.map_eq_some_iff.1 hr
    exact h.report r' hr' hoff

theorem reset : LineWf LineState.reset := by constructor <;> simp [LineState.reset]

end LineWf

theorem LineUnit.period_below {u : LineUnit} (h : u.sampleCounter < u.sampleDivider.toNat) (pins : BitVec 24)
    (now : Time) : (u.period pins now).sampleCounter < (u.period pins now).sampleDivider.toNat := by
  unfold LineUnit.period
  split
  · next hbelow => exact hbelow
  · exact Nat.zero_lt_of_lt h

theorem LineUnit.period_lines {u : LineUnit} (h : ∀ l : Line, LineWf u.lines[l]) (pins : BitVec 24) (now : Time)
    (l : Line) : LineWf (u.period pins now).lines[l] := by
  unfold LineUnit.period
  split
  · exact h l
  · simp only [Fin.getElem_fin, Vector.getElem_ofFn]
    exact (h l).sampleLine ..

theorem KeepsUnits.linePeriod (s : State) : KeepsUnits s s.linePeriod :=
  .of_units (fun h => ⟨h.time, h.forwarded, LineUnit.period_below h.sample ..,
    fun l => LineUnit.period_lines h.lines s.pins s.time.now l⟩) rfl rfl (.refl _)

theorem KeepsUnits.refclk (s : State) : KeepsUnits s s.refclk := (timePeriod s).trans (linePeriod _)

theorem KeepsUnits.refclks (n : Nat) (s : State) : KeepsUnits s (s.refclks n) := by
  induction n with
  | zero => exact refl s
  | succ n ih => rw [State.refclks_succ]; exact ih.trans (refclk _)

theorem execTick_keepsUnits (s : State) : UnitsKept s (execTick s) := by
  unfold execTick
  split
  · exact .next ((KeepsUnits.refclks _ s).trans (.refclk _))
  · exact .same s

theorem execSample_keepsUnits (pins : BitVec 24) (s : State) : UnitsKept s (execSample pins s) := by
  have hpins : KeepsUnits s { s with pins := pins } := .of_sends (.refl _) rfl rfl rfl rfl rfl
  exact .next (((hpins.trans (.refclks _ _)).trans (.linePeriod _)).trans (.timePeriod _))

theorem setSamplingAt_keepsUnits (divider : Byte) (s : State) : KeepsUnits s (setSamplingAt divider s).1 := by
  unfold setSamplingAt
  split
  · exact .refl s
  · next hdivider =>
    refine .of_units (fun h => ⟨h.time, h.forwarded, ?_, fun l => ?_⟩) rfl rfl (.refl _)
    · exact Nat.pos_of_ne_zero fun hzero => hdivider (BitVec.eq_of_toNat_eq hzero)
    · simp only [State.line, Fin.getElem_fin, Vector.getElem_map]
      exact (h.lines l).restarted

theorem onLine_keepsUnits (line : Byte) {k : Line → State × Response} {s : State} (h : ∀ l, KeepsUnits s (k l).1) :
    KeepsUnits s (onLine line k s).1 := by
  unfold onLine
  split
  · exact h _
  · exact .refl s

theorem maskAt_keepsUnits (line : Byte) (s : State) : KeepsUnits s (maskAt line s).1 := by
  refine onLine_keepsUnits line fun l => ?_
  dsimp only
  split
  · exact .refl s
  · exact .setLine s l fun h => h.withMask true

theorem unmaskAt_keepsUnits (line : Byte) (s : State) : KeepsUnits s (unmaskAt line s).1 := by
  refine onLine_keepsUnits line fun l => ?_
  dsimp only
  split
  · exact .setLine s l fun h => h.withMask false
  · exact .refl s

theorem setLineAt_keepsUnits (p : Port) (line enable polarity filter : Byte) (s : State) :
    KeepsUnits s (setLineAt p line enable polarity filter s).1 := by
  unfold setLineAt
  split
  · split
    · exact .refl s
    · split
      · exact .refl s
      · exact .of_sends (.refl _) rfl rfl rfl rfl rfl
  · exact .refl s

theorem execSetLineApply_keepsUnits (pins : BitVec 24) (s : State) : UnitsKept s (execSetLineApply pins s) := by
  unfold execSetLineApply
  split
  · next r rest hpath =>
    have htaken : KeepsUnits s { s with linePath := rest, pins := pins } := .of_sends (.refl _) rfl rfl rfl rfl rfl
    exact .next (htaken.trans (.setLine _ r.line fun _ => .applyConfig ..))
  · exact .same s

/-- An edge served to a line's listeners sends sound requests (R59). -/
theorem KeepsUnits.serveLine (s : State) (c : Ctx) (l : Line) (e : Edge) :
    KeepsUnits s (s.setEngine (s.engine.withTable (serveLine c s.engine.table l e))) :=
  setEngine s (Sends.serveLine c s.engine.table l e)

theorem takeReport_keepsUnits (s : State) (l : Line) (r : LevelReport) : KeepsUnits s (takeReport s l r) := by
  unfold takeReport
  have hview := KeepsUnits.setView s l { s.view l with enabled := r.enable, delivered := r.level }
  dsimp only
  split
  · exact (hview.trans (.serveLine _ _ l _)).trans (.setView _ l _)
  · exact hview.trans (.setView _ l _)

theorem takeEdge_keepsUnits (s : State) (l : Line) (e : Edge) : KeepsUnits s (takeEdge s l e) := by
  unfold takeEdge
  split
  · exact (KeepsUnits.setView s l _).trans (.serveLine _ _ l e)
  · exact .refl s

theorem execLevelReport_keepsUnits (l : Line) (s : State) : UnitsKept s (execLevelReport l s) := by
  unfold execLevelReport
  split
  · exact .next (((KeepsUnits.setLine s l LineWf.withoutReport).trans (takeReport_keepsUnits ..)).trans (.reply ..))
  · exact .same s

theorem execEdgeTaken_keepsUnits (l : Line) (s : State) : UnitsKept s (execEdgeTaken l s) := by
  unfold execEdgeTaken
  split
  · next hqueue => exact .next ((KeepsUnits.setLine s l fun h => h.tail hqueue).trans (takeEdge_keepsUnits ..))
  · exact .same s

theorem execDeadlineExpiry_keepsUnits (s : State) : UnitsKept s (execDeadlineExpiry s) := by
  unfold execDeadlineExpiry
  split
  · split
    · exact .next (.setEngine s ((Sends.expire ..).after rfl rfl))
    · exact .same s
  · exact .same s

/-! ### Outputs (R152 to R163) -/

theorem State.output_setOutput (s : State) (o m : Output) (x : OutputState) :
    (s.setOutput o x).output m = if m = o then x else s.output m := by
  split
  · next h => subst h; simp [State.output]
  · next h =>
    have hne : o.val ≠ m.val := fun e => h (Fin.ext e.symm)
    simp [State.output, Vector.getElem_set_ne, hne]

namespace OutputWf

variable {x y : OutputState}

/-- The activation count does not matter (R156). -/
theorem settle (h : OutputWf y) (x : OutputState) (now : Time) : OutputWf (x.settle y now) := by
  unfold OutputState.settle
  split
  · exact ⟨h.pulse, h.latch, h.width⟩
  · exact h

theorem released (h : OutputWf x) : OutputWf { x with drivers := Vector.replicate 64 false, pulseEnd := none } :=
  ⟨fun _ i => by simp, fun _ => rfl, h.width⟩

theorem withoutClaim (h : OutputWf x) (w : Idx) : OutputWf { x with drivers := x.drivers.set w false } where
  pulse hmode i := by
    have hi := h.pulse hmode i
    simp only [Fin.getElem_fin] at hi ⊢
    rw [Vector.getElem_set]
    split
    · rfl
    · exact hi
  latch := h.latch
  width := h.width

theorem withoutPulse (h : OutputWf x) : OutputWf { x with pulseEnd := none } := ⟨h.pulse, fun _ => rfl, h.width⟩

/-- An action claims in LATCH mode alone and starts a pulse in PULSE mode alone (R158). -/
theorem applyAction (h : OutputWf x) (kind : OutKind) (w : Idx) (now : Time) :
    OutputWf (applyAction kind w now x) := by
  obtain ⟨mode, width, polarity, force, drivers, pulseEnd, count⟩ := x
  cases kind with
  | set =>
    cases mode with
    | latch => exact ⟨(fun hpulse => by cases hpulse), h.latch, h.width⟩
    | pulse => exact ⟨h.pulse, (fun hlatch => by cases hlatch), h.width⟩
  | clear =>
    cases mode with
    | latch => exact h.withoutClaim w
    | pulse => exact h.withoutPulse
  | release => exact h.released

theorem deviceReset (h : OutputWf x) : OutputWf x.deviceReset :=
  ⟨fun _ i => by simp [OutputState.deviceReset], fun _ => rfl, h.width⟩

theorem reset : OutputWf OutputState.reset := by constructor <;> simp [OutputState.reset, Config.resetPulseWidth]

end OutputWf

/-- A request taken from the head of the output path sends none. -/
theorem Sends.takeOut {T : Table} {r : OutReq} {rest : List OutReq} (h : T.outPath = r :: rest) :
    Sends T { T with outPath := rest } :=
  ⟨fun _ hx => .inl (h ▸ List.mem_cons_of_mem r hx), fun _ hx => .inl hx⟩

/-- A change of one output, with the head of the path taken. -/
theorem KeepsUnits.changeOutput {s : State} {r : OutReq} {rest : List OutReq} (h : s.engine.table.outPath = r :: rest)
    (o : Output) {f : OutputState → OutputState} (hf : r.Sound → OutputWf (s.output o) → OutputWf (f (s.output o))) :
    KeepsUnits s ((s.setOutPath rest).changeOutput o f) where
  units hu := hu.congr rfl rfl rfl
  outputs ho := by
    have hsound : r.Sound := by
      cases r with
      | setOutput p o m w q => exact ho.forwarded p o m w q (by simp [h])
      | _ => trivial
    refine ho.sends (fun m => ?_) (.takeOut h)
    rw [State.changeOutput, State.output_setOutput]
    split
    · exact (hf hsound (ho.outputs o)).settle ..
    · exact ho.outputs m
  notices hn := hn.sends hn.entries (.takeOut h)

theorem takeAction_keepsUnits (kind : OutKind) (s : State) : UnitsKept s (takeAction kind s) := by
  unfold takeAction
  split
  · next hpath =>
    split
    · exact .next (.changeOutput hpath _ fun _ h => h.applyAction ..)
    · exact .same s
  · exact .same s

theorem execOutputPurge_keepsUnits (s : State) : UnitsKept s (execOutputPurge s) := by
  unfold execOutputPurge
  split
  · next w rest hpath =>
    refine .next ⟨fun hu => hu.congr rfl rfl rfl, fun ho => ho.sends (fun o => ?_) (.takeOut hpath),
      fun hn => hn.sends hn.entries (.takeOut hpath)⟩
    simp only [State.output, Fin.getElem_fin, Vector.getElem_map]
    exact ((ho.outputs o).withoutClaim w).settle ..
  · exact .same s

theorem execPulseEnd_keepsUnits (o : Output) (s : State) : UnitsKept s (execPulseEnd o s) := by
  unfold execPulseEnd
  split
  · refine .next ⟨fun hu => hu.congr rfl rfl rfl, fun ho => ho.sends (fun m => ?_) (.refl _),
      fun hn => hn.sends hn.entries (.refl _)⟩
    rw [State.changeOutput, State.output_setOutput]
    split
    · exact (ho.outputs o).withoutPulse.settle ..
    · exact ho.outputs m
  · exact .same s

theorem execSetOutputApply_keepsUnits (s : State) : UnitsKept s (execSetOutputApply s) := by
  unfold execSetOutputApply
  split
  · next hpath =>
    refine .next (.trans (.changeOutput hpath _ fun hwidth _ => ?_) (.complete ..))
    exact ⟨fun _ i => by simp, fun _ => rfl, hwidth⟩
  · exact .same s

theorem execForceOutputApply_keepsUnits (s : State) : UnitsKept s (execForceOutputApply s) := by
  unfold execForceOutputApply
  split
  · next hpath =>
    exact .next (.trans (.changeOutput hpath _ fun _ h => ⟨h.pulse, h.latch, h.width⟩) (.complete ..))
  · exact .same s

theorem execReleaseOutputApply_keepsUnits (s : State) : UnitsKept s (execReleaseOutputApply s) := by
  unfold execReleaseOutputApply
  split
  · next hpath => exact .next (.trans (.changeOutput hpath _ fun _ h => h.released) (.complete ..))
  · exact .same s

theorem execReadOutputApply_keepsUnits (s : State) : UnitsKept s (execReadOutputApply s) := by
  unfold execReadOutputApply
  split
  · next rest hpath =>
    have htaken : KeepsUnits s (s.setOutPath rest) := .setEngine s (.takeOut hpath)
    exact .next (htaken.trans (.complete ..))
  · exact .same s

/-- A host output command sends a sound request, or none (R160). -/
theorem forwardOutput_keepsUnits {r : Option OutReq} (h : ∀ x, r = some x → x.Sound) (s : State) :
    KeepsUnits s (forwardOutput r s).1 := by
  cases r with
  | none => exact .refl s
  | some r => exact .setEngine s (.sendOut (h r rfl))

theorem readSetOutput_sound {p : Port} {output mode polarity : Byte} {width : BitVec 16} {r : OutReq}
    (h : readSetOutput p output mode width polarity = some r) : r.Sound := by
  simp only [readSetOutput, Option.bind_eq_bind, Option.bind_eq_some_iff, Option.ite_none_left_eq_some] at h
  obtain ⟨o, -, m, -, q, -, hwidth, heq⟩ := h
  cases heq
  exact hwidth

theorem readForceOutput_sound {p : Port} {output force : Byte} {r : OutReq}
    (h : readForceOutput p output force = some r) : r.Sound := by
  simp only [readForceOutput, Option.bind_eq_bind, Option.bind_eq_some_iff] at h
  obtain ⟨o, -, f, -, heq⟩ := h
  cases heq
  trivial

/-! ### Notices (R166 to R174) -/

namespace NoticeState.Wf

variable {x : NoticeState}

theorem place (h : x.Wf) {n : Snapshot} (hn : SnapshotWf n) : (x.place n).Wf := by
  intro i m hm
  simp only [NoticeState.place, Fin.getElem_fin, Vector.getElem_set] at hm
  split at hm
  · next hi =>
    cases hm
    exact ⟨Fin.ext hi, hn⟩
  · exact h i m hm

theorem remove (h : x.Wf) (i : Idx) : (x.remove i).Wf := by
  intro j m hm
  simp only [NoticeState.remove, Fin.getElem_fin, Vector.getElem_set] at hm
  split at hm
  · cases hm
  · exact h j m hm

theorem empty (enable : Bool) : NoticeState.Wf { pending := Vector.replicate 64 none, enable := enable } := by
  intro i m hm
  simp at hm

end NoticeState.Wf

/-- A request taken from the head of the notice path sends none. -/
theorem Sends.takeNotice {T : Table} {r : NoticeReq} {rest : List NoticeReq} (h : T.noticePath = r :: rest) :
    Sends T { T with noticePath := rest } :=
  ⟨fun _ hx => .inl hx, fun _ hx => .inl (h ▸ List.mem_cons_of_mem r hx)⟩

theorem State.notice_setNotice (s : State) (p q : Port) (x : NoticeState) :
    (s.setNotice p x).notice q = if q = p then x else s.notice q := by
  cases p <;> cases q <;> rfl

theorem KeepsUnits.setNotice (s : State) (p : Port) {x : NoticeState} (hx : (s.notice p).Wf → x.Wf) :
    KeepsUnits s (s.setNotice p x) where
  units hu := hu.congr rfl rfl rfl
  outputs ho := ho.sends ho.outputs (.refl _)
  notices hn := by
    refine hn.sends (fun q => ?_) (.refl _)
    rw [State.notice_setNotice]
    split
    · exact hx (hn.entries p)
    · exact hn.entries q

theorem execNoticePost_keepsUnits (s : State) : UnitsKept s (execNoticePost s) := by
  unfold execNoticePost
  split
  · next route n rest hpath =>
    refine .next ⟨fun hu => hu.congr rfl rfl rfl, fun ho => ho.sends ho.outputs (.takeNotice hpath),
      fun hn => hn.sends (fun p => ?_) (.takeNotice hpath)⟩
    have hsnap : SnapshotWf n := hn.posts route n (by simp [hpath])
    have placed (q : Port) : (if route.names q then (s.notice q).place n else s.notice q).Wf := by
      split
      · exact NoticeState.Wf.place (hn.entries q) hsnap
      · exact hn.entries q
    cases p with
    | A => exact placed .A
    | B => exact placed .B
  · exact .same s

theorem execNoticePurge_keepsUnits (s : State) : UnitsKept s (execNoticePurge s) := by
  unfold execNoticePurge
  split
  · next i rest hpath =>
    refine .next ⟨fun hu => hu.congr rfl rfl rfl, fun ho => ho.sends ho.outputs (.takeNotice hpath),
      fun hn => hn.sends (fun p => ?_) (.takeNotice hpath)⟩
    cases p with
    | A => exact NoticeState.Wf.remove (hn.entries .A) i
    | B => exact NoticeState.Wf.remove (hn.entries .B) i
  · exact .same s

theorem takeNoticeAt_keepsUnits (p : Port) (s : State) : KeepsUnits s (takeNoticeAt p s).1 := by
  unfold takeNoticeAt
  split
  · exact .setNotice s p fun h => h.remove _
  · exact .refl s

theorem ackNoticeAt_keepsUnits (p : Port) (index : Byte) (s : State) : KeepsUnits s (ackNoticeAt p index s).1 := by
  unfold ackNoticeAt
  split
  · exact .setNotice s p fun h => h.remove _
  · exact .refl s

theorem setNoticeEnableAt_keepsUnits (p : Port) (enable : Byte) (s : State) :
    KeepsUnits s (setNoticeEnableAt p enable s).1 := by
  unfold setNoticeEnableAt
  split
  · exact .setNotice s p id
  · exact .refl s

/-! ### The engine's commands and sweeps -/

theorem Engine.freeWatch_sends (e : Engine) (i : Idx) : Sends e.table (e.freeWatch i).table :=
  have hout : Sends e.table (e.table.sendOut (.purge i)) := .sendOut trivial
  have hnotice : Sends _ ((e.table.sendOut (.purge i)).sendNotice (.purge i)) := .sendNotice trivial
  (hout.trans hnotice).trans (.of_paths rfl rfl)

theorem onWatch_sends {e : Engine} {p : Port} {b : Byte} {mutating : Bool} {takenFrom : WState → Bool}
    {k : Idx → Engine × Response} (h : ∀ i, Sends e.table (k i).1.table) :
    Sends e.table (onWatch e p b mutating takenFrom k).1.table := by
  rcases onWatch_cases e p b mutating takenFrom k with ⟨st, -, -, heq⟩ | ⟨i, -, -, -, -, heq⟩ <;> rw [heq]
  · exact .refl _
  · exact h i

/-- A visit that affects its member, as the single command does (R111 to R114). -/
theorem SweepKind.effect_sends (kind : SweepKind) (c : Ctx) (e : Engine) (i : Idx) :
    Sends e.table (kind.effect c e i).table := by
  cases kind with
  | arm => exact Sends.armWatch (concluder_sends c) ..
  | hold => exact .of_paths rfl rfl
  | release => exact Sends.releaseWatch (concluder_sends c) ..
  | cancel => exact concluder_sends c e.table i .cancelled .host c.now (.inl rfl)
  | clear =>
    have hended : Sends e.table ((endStep e.table i).clearFollowers i) := (Sends.endStep ..).trans (.of_paths rfl rfl)
    exact hended.trans (Engine.freeWatch_sends (e.withTable _) i)

theorem visit_sends (kind : SweepKind) (c : Ctx) (e : Engine) (i : Idx) :
    Sends e.table (visit kind c e i).1.table := by
  by_cases h : kind.affects c (e.watch i) = true
  · rw [visit_of_affects h]
    exact kind.effect_sends c e i
  · rw [visit_of_not_affects (by simpa using h)]
    exact .refl _

theorem sweepHappening_keepsUnits (p : Port) (w : Sweep) (s : State) : KeepsUnits s (sweepHappening p w s).1 := by
  unfold sweepHappening
  split
  · exact .setSweep s p _
  · next i hmember =>
    have hvisit := KeepsUnits.setEngine s (visit_sends w.kind s.ctx s.engine i)
    dsimp only
    split
    · exact hvisit.trans (.setSweep _ p _)
    · exact (hvisit.trans (.setSweep _ p _)).trans (.setPort _ p _)

theorem stopSweep_keepsUnits (p : Port) (s : State) : KeepsUnits s (stopSweep p s).1 := .setSweep s p _

theorem startGroup_keepsUnits (p : Port) (kind : SweepKind) (g : Byte) (s : State) :
    KeepsUnits s (startGroup p kind g s).1 := by
  unfold startGroup
  split
  · exact stopSweep_keepsUnits p s
  · split
    · exact sweepHappening_keepsUnits ..
    · exact .refl s

theorem execSweepVisit_keepsUnits (p : Port) (s : State) : UnitsKept s (execSweepVisit p s) := by
  unfold execSweepVisit
  have hpass := KeepsUnits.pass s p
  split
  · split
    · exact .next (hpass.trans (.finish p (stopSweep_keepsUnits ..)))
    · split
      · exact .next (hpass.trans (.finish p (sweepHappening_keepsUnits ..)))
      · exact .same s
  · exact .same s

theorem execSweepStop_keepsUnits (p : Port) (s : State) : UnitsKept s (execSweepStop p s) := by
  unfold execSweepStop
  split
  · exact .next ((KeepsUnits.pass s p).trans (.finish p (stopSweep_keepsUnits ..)))
  · exact .same s

section Definition

variable (p : Port) (index : Byte) (e : Engine)

theorem createAt_sends (tag : BitVec 16) : Sends e.table (createAt p tag e).1.table := by
  unfold createAt
  split
  · exact .refl _
  · split
    · exact .refl _
    · split
      · exact .refl _
      · exact .of_paths rfl rfl

theorem addStepAt_sends (desc : List Byte) : Sends e.table (addStepAt p index desc e).1.table := by
  refine onWatch_sends fun i => ?_
  dsimp only
  split
  · exact .refl _
  · split
    · exact .refl _
    · split
      · exact .refl _
      · exact .of_paths rfl rfl

theorem dropStepAt_sends : Sends e.table (dropStepAt p index e).1.table := by
  refine onWatch_sends fun i => ?_
  dsimp only
  split
  · exact .refl _
  · exact .of_paths rfl rfl

theorem setActionsAt_sends (side count : Byte) (acts : List (Byte × Byte)) :
    Sends e.table (setActionsAt p index side count acts e).1.table := by
  refine onWatch_sends fun i => ?_
  split
  · exact .refl _
  · split
    · exact .refl _
    · split
      · exact .refl _
      · exact .of_paths rfl rfl

theorem setOptionsAt_sends (rep group route : Byte) :
    Sends e.table (setOptionsAt p index rep group route e).1.table := by
  refine onWatch_sends fun i => ?_
  split
  · exact .of_paths rfl rfl
  · exact .refl _

theorem sealAt_sends : Sends e.table (sealAt p index e).1.table := by
  refine onWatch_sends fun i => ?_
  split
  · exact .refl _
  · exact .of_paths rfl rfl

theorem reopenAt_sends : Sends e.table (reopenAt p index e).1.table := onWatch_sends fun _ => .of_paths rfl rfl

theorem retireAt_sends : Sends e.table (retireAt p index e).1.table := by
  refine onWatch_sends fun i => ?_
  split
  · exact .refl _
  · exact Engine.freeWatch_sends e i

theorem readWatchAt_sends (part k : Byte) : Sends e.table (readWatchAt p index part k e).1.table := by
  refine onWatch_sends fun i => ?_
  split <;> exact .refl _

theorem armAt_sends (c : Ctx) : Sends e.table (armAt p index c e).1.table := by
  refine onWatch_sends fun i => ?_
  split
  · exact Sends.armWatch (concluder_sends c) ..
  · exact .refl _

theorem cancelAt_sends (c : Ctx) : Sends e.table (cancelAt p index c e).1.table :=
  onWatch_sends fun i => concluder_sends c e.table i .cancelled .host c.now (.inl rfl)

theorem holdAt_sends : Sends e.table (holdAt p index e).1.table := onWatch_sends fun _ => .of_paths rfl rfl

theorem releaseAt_sends (c : Ctx) : Sends e.table (releaseAt p index c e).1.table :=
  onWatch_sends fun _ => Sends.releaseWatch (concluder_sends c) ..

theorem ackAt_sends : Sends e.table (ackAt p index e).1.table := onWatch_sends fun _ => .of_paths rfl rfl

end Definition

/-! ### Resets -/

/-- Every line, output and pending set begins again, and the paths are empty (R126, R151, R165, R176). -/
theorem State.deviceReset_keepsUnits (s : State) (p : Port) : KeepsUnits s (s.deviceReset p) where
  units h := by
    refine ⟨h.time, fun r hr => ?_, h.sample, fun l => ?_⟩
    · obtain ⟨r', hr', rfl⟩ := List.mem_map.1 hr
      exact h.forwarded r' hr'
    · have hl : (s.deviceReset p).line l = (s.line l).deviceReset := by simp [State.line, State.deviceReset]
      exact hl ▸ (h.lines l).deviceReset
  outputs h := by
    refine ⟨fun o => ?_, fun _ _ _ _ _ hr => nomatch hr⟩
    have ho : (s.deviceReset p).output o = (s.output o).deviceReset := by simp [State.output, State.deviceReset]
    exact ho ▸ (h.outputs o).deviceReset
  notices _ := by
    refine ⟨fun q => ?_, fun _ _ hr => nomatch hr⟩
    cases q with
    | A => exact NoticeState.Wf.empty s.notices.a.enable
    | B => exact NoticeState.Wf.empty s.notices.b.enable

theorem execHardwareReset_keepsUnits (addr : BitVec 2) (s : State) : UnitsKept s (execHardwareReset addr s) := by
  have htime : 0 < Config.resetDivider.toNat := by decide
  have hsample : 0 < Config.resetSampleDivider.toNat := by decide
  refine .next ⟨fun _ => ⟨htime, (fun _ hr => nomatch hr), hsample, fun l => ?_⟩,
    fun _ => ⟨fun o => ?_, fun _ _ _ _ _ hr => nomatch hr⟩, fun _ => ⟨fun q => ?_, fun _ _ hr => nomatch hr⟩⟩
  · simpa [State.line, State.reset, LineUnit.reset] using LineWf.reset
  · simpa [State.output, State.reset] using OutputWf.reset
  · cases q <;> exact NoticeState.Wf.empty false

/-! ### Transactions on the buses -/

/-- ABORT changes its port, and may request that its sweep stops (R117, R190). -/
theorem State.beginAbort_keepsUnits (p : Port) (s : State) : KeepsUnits s (s.beginAbort p) := by
  unfold State.beginAbort
  dsimp only
  split
  · exact .refl s
  · exact .refl s
  · exact .setPort s p _
  · split
    · exact .refl s
    · split
      · exact (KeepsUnits.setPort s p _).trans (.setSweep _ p _)
      · exact .setPort s p _

section Transactions

variable {p : Port} {act : State → State} (hact : ∀ s, KeepsUnits s (act s))

include hact

theorem State.headByte_keepsUnits (s : State) (o : Opening) (part : HeadPart) :
    KeepsUnits s (s.headByte p o act part) := by
  have code (s : State) : KeepsUnits s (s.codeByte p act) := by
    unfold State.codeByte
    dsimp only
    split
    · exact (KeepsUnits.setPort s p _).trans (hact _)
    · exact .refl s
  cases part with
  | whole =>
    unfold State.headByte
    dsimp only
    split
    · exact ((KeepsUnits.of_onlyPort (s.openBus_only p o)).trans (code _)).trans
        (.of_onlyPort (State.shiftStatus_only _ p))
    · exact .refl s
  | opened => exact .of_onlyPort (s.openBus_only p o)
  | code => exact code s
  | shifted => exact .of_onlyPort (s.shiftStatus_only p)

theorem State.transact_keepsUnits (s : State) (o : Opening) (part : TransactionPart) :
    KeepsUnits s (s.transact p o act part) := by
  cases part with
  | whole n =>
    unfold State.transact
    dsimp only
    split
    · exact ((State.headByte_keepsUnits hact s o .whole).trans (.of_onlyPort (State.clockBytes_only _ p n))).trans
        (.of_onlyPort (State.stopBus_only _ p))
    · exact .refl s
  | head h => exact State.headByte_keepsUnits hact s o h
  | clock n => exact .of_onlyPort (s.clockBytes_only p n)
  | stop => exact .of_onlyPort (s.stopBus_only p)

end Transactions

theorem State.takeCommand_only (s : State) (p : Port) (c : Instr) : OnlyPort p s (s.takeCommand p c) := by
  unfold State.takeCommand
  split
  · exact .set _ _ _
  · exact .set _ _ _

theorem execFrameReceived_keepsUnits (p : Port) (bytes : List Byte) (s : State) :
    UnitsKept s (execFrameReceived p bytes s) := by
  have hend := KeepsUnits.of_onlyPort (.set p s _ : OnlyPort p s (s.endFrame p bytes.length))
  unfold execFrameReceived
  dsimp only
  split
  · split
    · split
      · exact .next (hend.trans (.setPort _ p _))
      · exact .next (hend.trans (.setPort _ p _))
      · exact .next (hend.trans (.setPort _ p _))
      · exact .next (hend.trans (.of_onlyPort (State.takeCommand_only ..)))
    · exact .next hend
  · exact .same s

theorem execIdentify_keepsUnits (p : Port) (s : State) : UnitsKept s (execIdentify p s) := by
  unfold execIdentify
  split
  · exact .next ((KeepsUnits.setPort s p _).trans (.of_onlyPort (State.takeCommand_only ..)))
  · exact .same s

/-! ### Every command -/

/-- The three invariants of the units stay in every happening. -/
theorem exec_keepsUnits (c : Instr) (s : State) : UnitsKept s (exec c s) := by
  cases c with
  -- The engine's commands that change the engine alone.
  | create p tag => exact .onEngine _ _ _ fun e => createAt_sends p e tag
  | addStep p index desc => exact .onEngine _ _ _ fun e => addStepAt_sends p index e desc
  | dropStep p index => exact .onEngine _ _ _ fun e => dropStepAt_sends p index e
  | setActions p index side count acts => exact .onEngine _ _ _ fun e => setActionsAt_sends p index e side count acts
  | setOptions p index rep group route => exact .onEngine _ _ _ fun e => setOptionsAt_sends p index e rep group route
  | reopen p index => exact .onEngine _ _ _ fun e => reopenAt_sends p index e
  | retire p index => exact .onEngine _ _ _ fun e => retireAt_sends p index e
  | find p | scan p | readPool p => exact .onEngine _ _ _ fun e => .refl e.table
  | readWatch p index part k => exact .onEngine _ _ _ fun e => readWatchAt_sends p index e part k
  | arm p index => exact .onEngine _ _ _ fun e => armAt_sends p index e s.ctx
  | cancel p index => exact .onEngine _ _ _ fun e => cancelAt_sends p index e s.ctx
  | hold p index => exact .onEngine _ _ _ fun e => holdAt_sends p index e
  | release p index => exact .onEngine _ _ _ fun e => releaseAt_sends p index e s.ctx
  | ack p index => exact .onEngine _ _ _ fun e => ackAt_sends p index e
  -- The engine's other commands, and its happenings.
  | armGroup p group | holdGroup p group | releaseGroup p group | cancelGroup p group =>
    exact .atEngine _ _ _ fun s => startGroup_keepsUnits p _ group s
  | clearOwned p =>
    simp only [exec, execClearOwned]
    refine .atEngine _ _ _ fun s => ?_
    split
    · exact stopSweep_keepsUnits p s
    · exact sweepHappening_keepsUnits p _ s
  | sweepVisit p => exact execSweepVisit_keepsUnits p s
  | sweepStop p => exact execSweepStop_keepsUnits p s
  | setTimebase p divider => exact .atEngine _ _ _ (setTimebaseAt_keepsUnits p divider)
  | setLine p line enable polarity filter =>
    exact .atEngine _ _ _ (setLineAt_keepsUnits p line enable polarity filter)
  | setOutput p => exact .atEngine _ _ _ (forwardOutput_keepsUnits fun _ => readSetOutput_sound)
  | forceOutput p => exact .atEngine _ _ _ (forwardOutput_keepsUnits fun _ => readForceOutput_sound)
  | releaseOutput p output | readOutput p output =>
    refine .atEngine _ _ _ (forwardOutput_keepsUnits fun r hr => ?_)
    obtain ⟨o, -, rfl⟩ := Option.map_eq_some_iff.1 hr
    trivial
  | levelReport line => exact execLevelReport_keepsUnits line s
  | edgeTaken line => exact execEdgeTaken_keepsUnits line s
  | deadlineExpiry => exact execDeadlineExpiry_keepsUnits s
  -- The Timebase and the Line Unit.
  | timebaseDividerApply => exact execTimebaseDividerApply_keepsUnits s
  | timeHold p | timeRun p => exact .atBlock _ _ _ (setHold_keepsUnits _)
  | readTime p | readLevels p | peekNotices p =>
    simp only [exec, execReadTime, execReadLevels, execPeekNotices]
    exact .atBlock _ _ _ fun s => .refl s
  | tick => exact execTick_keepsUnits s
  | setLineApply pins => exact execSetLineApply_keepsUnits pins s
  | maskLine p line => exact .atBlock _ _ _ (maskAt_keepsUnits line)
  | unmaskLine p line => exact .atBlock _ _ _ (unmaskAt_keepsUnits line)
  | readLine p line =>
    simp only [exec, execReadLine]
    exact .atBlock _ _ _ fun s => onLine_keepsUnits line fun _ => .refl s
  | setSampling p divider => exact .atBlock _ _ _ (setSamplingAt_keepsUnits divider)
  | sample pins => exact execSample_keepsUnits pins s
  -- The Output Unit and the Notice Unit.
  | outSet | outClear | outRelease => exact takeAction_keepsUnits _ s
  | outputPurge => exact execOutputPurge_keepsUnits s
  | pulseEnd output => exact execPulseEnd_keepsUnits output s
  | setOutputApply => exact execSetOutputApply_keepsUnits s
  | forceOutputApply => exact execForceOutputApply_keepsUnits s
  | releaseOutputApply => exact execReleaseOutputApply_keepsUnits s
  | readOutputApply => exact execReadOutputApply_keepsUnits s
  | noticePost => exact execNoticePost_keepsUnits s
  | noticePurge => exact execNoticePurge_keepsUnits s
  | takeNotice p => exact .atBlock _ _ _ (takeNoticeAt_keepsUnits p)
  | ackNotice p index => exact .atBlock _ _ _ (ackNoticeAt_keepsUnits p index)
  | setNoticeEnable p enable => exact .atBlock _ _ _ (setNoticeEnableAt_keepsUnits p enable)
  -- The ports and the resets.
  | identify p => exact execIdentify_keepsUnits p s
  | deviceReset p =>
    simp only [exec, execDeviceReset]
    exact .atEngine _ _ _ fun s => s.deviceReset_keepsUnits p
  | hardwareReset addr => exact execHardwareReset_keepsUnits addr s
  | command t =>
    simp only [exec, execCommand]
    exact .onBus _ _ _ fun p => State.headByte_keepsUnits (fun s => .of_onlyPort (State.beginFrame_only p s)) ..
  | frameReceived p bytes => exact execFrameReceived_keepsUnits p bytes s
  | fetch p o part =>
    simp only [exec, execFetch]
    exact .onBus _ _ _ fun q => State.transact_keepsUnits (fun s => .of_onlyPort (State.beginFetch_only q s)) ..
  | abort t =>
    simp only [exec, execAbort]
    exact .onBus _ _ _ fun p => State.transact_keepsUnits (State.beginAbort_keepsUnits p) ..
  | status o part =>
    simp only [exec, execStatus]
    exact .onBus _ _ _ fun p => State.transact_keepsUnits (fun s => .refl s) ..
  | unknownTransferCode o part =>
    simp only [exec, execUnknownTransferCode]
    exact .onBus _ _ _ fun p => State.transact_keepsUnits (fun s => .setPort s p _) ..
  | _ =>
    -- What is left is SEAL, whose constructor bears a word of Lean's own.
    exact .onEngine _ _ _ fun e => sealAt_sends _ _ e

/-- A step keeps them too: a queue's front is taken away, or a REFCLK period passes (log 3). -/
theorem step_keepsUnits (s : State) : UnitsKept s (step s) := by
  unfold step
  split
  · next c rest hpending =>
    obtain ⟨t, ht, hkeeps⟩ := exec_keepsUnits c { s with pending := rest }
    have hqueue : KeepsUnits s { s with pending := rest } := .of_sends (.refl _) rfl rfl rfl rfl rfl
    exact ⟨t, ht, hqueue.trans hkeeps⟩
  · exact .next (.refclk s)

theorem keepsUnits_of_step {s t : State} (h : step s = .next t) : KeepsUnits s t := by
  obtain ⟨u, hu, hkeeps⟩ := step_keepsUnits s
  rwa [Host.Outcome.next.inj (h.symm.trans hu)]

/-- Settles O59: each happening keeps the counters, lines, outputs and notices, and sends sound requests alone. -/
theorem stepKeepsUnits : Obligations.StepKeepsUnits :=
  ⟨fun _ _ hs hstep => (keepsUnits_of_step hstep).units hs, fun _ _ hs hstep => (keepsUnits_of_step hstep).outputs hs,
    fun _ _ hs hstep => (keepsUnits_of_step hstep).notices hs⟩

end Sys2Proof.Machine

/-! PROOFS. Time, REFCLK and what is derived from the state: the step on a queue (O1), SET_TIMEBASE and the hold state
(O34, O35), TICK and SAMPLE over the REFCLK periods they let pass (O36, O41), the deadline list (O37), and the pins
(O53). -/

namespace Sys2Proof.Machine

open Sys2Proof

/-! ### Counting to a divider -/

theorem div_mod_succ_of_lt {a b : Nat} (h : a % b + 1 < b) : (a + 1) / b = a / b ∧ (a + 1) % b = a % b + 1 := by
  refine (Nat.div_mod_unique (by omega)).2 ⟨?_, h⟩
  have := Nat.mod_add_div a b
  omega

theorem div_mod_succ_of_le {a b : Nat} (hb : 0 < b) (h : b ≤ a % b + 1) :
    (a + 1) / b = a / b + 1 ∧ (a + 1) % b = 0 := by
  refine (Nat.div_mod_unique hb).2 ⟨?_, hb⟩
  have := Nat.mod_add_div a b
  have := Nat.mod_lt a hb
  rw [Nat.mul_add]
  omega

/-! ### The Timebase over REFCLK periods (R118) -/

/-- The periods counted since the last tick but for the returns to 0, `n` periods on: in HELD none is counted. -/
def Timebase.counted (t : Timebase) (n : Nat) : Nat :=
  if t.hold = .running then t.partialCount + n else t.partialCount

/-- The Timebase `n` REFCLK periods on. -/
def Timebase.afterPeriods (t : Timebase) (n : Nat) : Timebase :=
  { t with
    now := t.now + BitVec.ofNat 48 (t.counted n / t.divider.toNat)
    partialCount := t.counted n % t.divider.toNat }

theorem Timebase.counted_le_succ (t : Timebase) (n : Nat) : t.counted n ≤ t.counted (n + 1) := by
  unfold Timebase.counted
  split <;> omega

theorem Timebase.afterPeriods_zero {t : Timebase} (h : t.partialCount < t.divider.toNat) : t.afterPeriods 0 = t := by
  have hcounted : t.counted 0 = t.partialCount := by simp [Timebase.counted]
  rw [Timebase.afterPeriods, hcounted, Nat.div_eq_of_lt h, Nat.mod_eq_of_lt h]
  simp

theorem Timebase.period_afterPeriods {t : Timebase} (h : 0 < t.divider.toNat) (n : Nat) :
    (t.afterPeriods n).period = t.afterPeriods (n + 1) := by
  cases hhold : t.hold with
  | held => simp [Timebase.period, Timebase.afterPeriods, Timebase.counted, hhold]
  | running =>
    simp only [Timebase.period, Timebase.afterPeriods, Timebase.counted, hhold, if_true, ← Nat.add_assoc]
    split
    · next hbelow =>
      obtain ⟨hdiv, hmod⟩ := div_mod_succ_of_lt hbelow
      rw [hdiv, hmod]
    · next hfull =>
      obtain ⟨hdiv, hmod⟩ := div_mod_succ_of_le h (Nat.le_of_not_lt hfull)
      rw [hdiv, hmod, BitVec.ofNat_add, BitVec.add_assoc]
      rfl

theorem State.refclks_time {s : State} (h : s.time.partialCount < s.time.divider.toNat) (n : Nat) :
    (s.refclks n).time = s.time.afterPeriods n := by
  induction n with
  | zero => exact (Timebase.afterPeriods_zero h).symm
  | succ n ih => rw [State.refclks_succ, State.refclk_time, ih, Timebase.period_afterPeriods (Nat.zero_lt_of_lt h)]

theorem State.refclks_pins (n : Nat) (s : State) : (s.refclks n).pins = s.pins := by
  rw [State.refclks_only]

/-! ### The Line Unit over REFCLK periods (R135) -/

/-- All a REFCLK period can do to the Line Unit. -/
theorem LineUnit.period_cases (u : LineUnit) (pins : BitVec 24) (now : Time) :
    (u.sampleCounter + 1 < u.sampleDivider.toNat ∧
        u.period pins now = { u with sampleCounter := u.sampleCounter + 1 }) ∨
      (u.sampleDivider.toNat ≤ u.sampleCounter + 1 ∧ (u.period pins now).sampleCounter = 0 ∧
        ∀ l : Line, LineSampled (pins.getLsbD l.val) now u.lines[l] (u.period pins now).lines[l]) := by
  unfold LineUnit.period
  split
  · next hbelow => exact .inl ⟨hbelow, rfl⟩
  · next hfull =>
    refine .inr ⟨Nat.le_of_not_lt hfull, rfl, fun l => ?_⟩
    simp only [Fin.getElem_fin, Vector.getElem_ofFn]
    exact sampleLine_sampled ..

theorem State.refclks_sampleDivider (n : Nat) (s : State) :
    (s.refclks n).lineUnit.sampleDivider = s.lineUnit.sampleDivider := by
  induction n with
  | zero => rfl
  | succ n ih => rw [State.refclks_succ, State.refclk_lineUnit, LineUnit.period_divider, ih]

theorem State.refclks_sampleCounter {s : State} (h : s.lineUnit.sampleCounter < s.lineUnit.sampleDivider.toNat)
    (n : Nat) : (s.refclks n).lineUnit.sampleCounter =
      (s.lineUnit.sampleCounter + n) % s.lineUnit.sampleDivider.toNat := by
  induction n with
  | zero => exact (Nat.mod_eq_of_lt h).symm
  | succ n ih =>
    rw [State.refclks_succ, State.refclk_lineUnit, ← Nat.add_assoc]
    rcases LineUnit.period_cases (s.refclks n).lineUnit (s.refclks n).pins (s.refclks n).time.period.now with
      ⟨hbelow, heq⟩ | ⟨hfull, heq, -⟩ <;> rw [heq]
    · rw [ih, State.refclks_sampleDivider] at hbelow
      rw [ih, (div_mod_succ_of_lt hbelow).2]
    · rw [ih, State.refclks_sampleDivider] at hfull
      rw [(div_mod_succ_of_le (Nat.zero_lt_of_lt h) hfull).2]

/-- One more period takes a sample of a line exactly when the sample counter returns to 0. -/
theorem State.refclk_line {s : State} (h : s.lineUnit.sampleCounter < s.lineUnit.sampleDivider.toNat) (n : Nat)
    (l : Line) : if (s.lineUnit.sampleCounter + (n + 1)) % s.lineUnit.sampleDivider.toNat = 0 then
      LineSampled (s.pins.getLsbD l.val) (s.refclks (n + 1)).time.now ((s.refclks n).line l)
        ((s.refclks (n + 1)).line l)
    else (s.refclks (n + 1)).line l = (s.refclks n).line l := by
  rw [State.refclks_succ, ← Nat.add_assoc]
  rcases LineUnit.period_cases (s.refclks n).lineUnit (s.refclks n).pins (s.refclks n).time.period.now with
    ⟨hbelow, heq⟩ | ⟨hfull, -, hlines⟩
  · rw [State.refclks_sampleCounter h, State.refclks_sampleDivider] at hbelow
    rw [if_neg (by rw [(div_mod_succ_of_lt hbelow).2]; exact Nat.succ_ne_zero _)]
    rw [State.line, State.refclk_lineUnit, heq]
    rfl
  · rw [State.refclks_sampleCounter h, State.refclks_sampleDivider] at hfull
    rw [if_pos (div_mod_succ_of_le (Nat.zero_lt_of_lt h) hfull).2, ← State.refclks_pins n s]
    exact hlines l

/-- Before the next tick, `now` stands still, and a line takes the samples that fall due. -/
theorem State.refclks_line {s : State} (htime : s.time.partialCount < s.time.divider.toNat)
    (h : s.lineUnit.sampleCounter < s.lineUnit.sampleDivider.toNat) {n : Nat}
    (hn : s.time.counted n < s.time.divider.toNat) (l : Line) :
    LineSampledTimes (s.pins.getLsbD l.val) s.time.now
      ((s.lineUnit.sampleCounter + n) / s.lineUnit.sampleDivider.toNat) (s.line l) ((s.refclks n).line l) := by
  induction n with
  | zero =>
    rw [Nat.add_zero, Nat.div_eq_of_lt h]
    exact .none _
  | succ n ih =>
    have hbefore := Nat.lt_of_le_of_lt (s.time.counted_le_succ n) hn
    have hnow : (s.refclks (n + 1)).time.now = s.time.now := by
      simp [State.refclks_time htime, Timebase.afterPeriods, Nat.div_eq_of_lt hn]
    have hline := State.refclk_line h n l
    rw [hnow] at hline
    have hpos : 0 < s.lineUnit.sampleDivider.toNat := Nat.zero_lt_of_lt h
    by_cases hdue : s.lineUnit.sampleDivider.toNat ≤
        (s.lineUnit.sampleCounter + n) % s.lineUnit.sampleDivider.toNat + 1
    · obtain ⟨hdiv, hmod⟩ := div_mod_succ_of_le hpos hdue
      rw [← Nat.add_assoc, hdiv]
      rw [← Nat.add_assoc, if_pos hmod] at hline
      exact .more _ _ _ _ (ih hbefore) hline
    · obtain ⟨hdiv, hmod⟩ := div_mod_succ_of_lt (Nat.lt_of_not_le hdue)
      rw [← Nat.add_assoc, hdiv]
      rw [← Nat.add_assoc, if_neg (by rw [hmod]; exact Nat.succ_ne_zero _)] at hline
      rw [hline]
      exact ih hbefore

/-- Before the next sample, the sample counter alone changes. -/
theorem State.refclks_lineUnit {s : State} {n : Nat}
    (h : s.lineUnit.sampleCounter + n < s.lineUnit.sampleDivider.toNat) :
    (s.refclks n).lineUnit = { s.lineUnit with sampleCounter := s.lineUnit.sampleCounter + n } := by
  induction n with
  | zero => rfl
  | succ n ih =>
    rw [State.refclks_succ, State.refclk_lineUnit, ih (by omega)]
    exact if_pos h

/-! ### A step, a tick and a sample -/

/-- Settles O1: the period of each unit is its cases, with the tick ahead of the sample (log 3). -/
theorem stepOfQueue : Obligations.StepOfQueue := by
  refine ⟨fun c rest s hpending => by simp [step, hpending], fun s hpending => ?_⟩
  have hlines := LineUnit.period_cases s.lineUnit s.pins s.time.period.now
  refine ⟨s.refclk, by simp [step, hpending], rfl, ?_, fun hbelow => ?_, fun hfull => ?_⟩
  · rw [State.refclk_time]
    rcases s.time.period_cases with ⟨hhold, heq⟩ | ⟨hhold, hbelow, heq⟩ | ⟨hhold, hfull, heq⟩ <;> rw [heq]
    · rw [if_pos hhold]
    · rw [if_neg (by simp [hhold]), if_pos hbelow]
    · rw [if_neg (by simp [hhold]), if_neg (Nat.not_lt.2 hfull)]
  · exact (hlines.resolve_right fun ⟨hfull, _⟩ => absurd hbelow (Nat.not_lt.2 hfull)).2
  · obtain ⟨-, hcounter, hsampled⟩ := hlines.resolve_left fun ⟨hbelow, _⟩ => absurd hbelow (Nat.not_lt.2 hfull)
    exact ⟨hcounter, LineUnit.period_divider .., hsampled⟩

theorem exec_tick_running {s : State} (hhold : s.time.hold = .running)
    (htime : s.time.partialCount < s.time.divider.toNat) :
    exec .tick s = .next (s.refclks (s.time.divider.toNat - s.time.partialCount)) := by
  have hperiods : s.time.divider.toNat - s.time.partialCount = s.time.beforeTick + 1 := by
    unfold Timebase.beforeTick
    omega
  rw [hperiods, State.refclks_succ]
  simp [exec, execTick, hhold]

/-- Settles O36: no tick falls in the periods before the last, and the last is one (log 4). -/
theorem tickCountsTime : Obligations.TickCountsTime := by
  intro s
  refine ⟨fun hhold => by simp [exec, execTick, hhold], fun hhold htime hsample => ?_⟩
  obtain ⟨n, hn⟩ : ∃ n, s.time.divider.toNat - s.time.partialCount = n + 1 :=
    Nat.exists_eq_add_one.2 (Nat.sub_pos_of_lt htime)
  have hcounted (k : Nat) : s.time.counted k = s.time.partialCount + k := if_pos hhold
  have htick : s.time.counted (n + 1) = s.time.divider.toNat := by rw [hcounted]; omega
  have hafter : (s.refclks (n + 1)).time = { s.time with now := s.time.now + 1, partialCount := 0 } := by
    rw [State.refclks_time htime, Timebase.afterPeriods, htick, Nat.div_self (Nat.zero_lt_of_lt htime), Nat.mod_self]
    rfl
  dsimp only
  rw [exec_tick_running hhold htime, hn]
  refine ⟨_, rfl, State.refclks_only .., by rw [hafter], by simp [hafter, BitVec.toNat_add],
    State.refclks_sampleDivider .., State.refclks_sampleCounter hsample _, fun l => ⟨(s.refclks n).line l, ?_, ?_⟩⟩
  · exact State.refclks_line htime hsample (by rw [hcounted]; omega) l
  · exact State.refclk_line hsample n l

/-- Settles O41: no sample falls in the periods before the last, and the last is one, ahead of its tick (log 4). -/
theorem sampleFilters : Obligations.SampleFilters := by
  intro pins s htime hsample
  obtain ⟨n, hn⟩ : ∃ n, s.lineUnit.sampleDivider.toNat - s.lineUnit.sampleCounter = n + 1 :=
    Nat.exists_eq_add_one.2 (Nat.sub_pos_of_lt hsample)
  have hbefore : s.lineUnit.beforeSample = n := by unfold LineUnit.beforeSample; omega
  have htimeAt : (({ s with pins := pins } : State).refclks n).time = s.time.afterPeriods n :=
    State.refclks_time (s := { s with pins := pins }) htime n
  have hunitAt : (({ s with pins := pins } : State).refclks n).lineUnit =
      { s.lineUnit with sampleCounter := s.lineUnit.sampleCounter + n } :=
    State.refclks_lineUnit (by dsimp only; omega)
  have hperiod := LineUnit.period_cases { s.lineUnit with sampleCounter := s.lineUnit.sampleCounter + n } pins
    (s.time.afterPeriods n).now
  obtain ⟨-, hcounter, hlines⟩ := hperiod.resolve_left fun ⟨hbelow, _⟩ => by dsimp only at hbelow; omega
  dsimp only
  rw [hn]
  refine ⟨{ s with
      pins := pins, time := s.time.afterPeriods (n + 1)
      lineUnit := LineUnit.period { s.lineUnit with sampleCounter := s.lineUnit.sampleCounter + n } pins
        (s.time.afterPeriods n).now }, ?_, rfl, rfl, hcounter, LineUnit.period_divider .., hlines⟩
  change execSample pins s = _
  rw [execSample, hbefore, State.refclks_only, State.linePeriod, State.timePeriod, htimeAt, hunitAt,
    Timebase.period_afterPeriods (Nat.zero_lt_of_lt htime)]

/-! ### SET_TIMEBASE, the hold state and the time (R121 to R125) -/

theorem anyLive_iff {T : Table} : anyLive T = true ↔ ∃ i, (T.watch i).live = true := by
  simp [anyLive, allWatches]

/-- Settles O34: the checks in their order, then the forwarded divider at the Timebase. -/
theorem setTimebaseForwarded : Obligations.SetTimebaseForwarded := by
  refine ⟨fun p divider s hoffered => ⟨?_, fun hdivider hlive => ?_, fun hdivider hidle => ?_⟩,
    fun r rest s hpath => ?_⟩
  · rintro rfl
    exact atEngine_refused hoffered rfl
  · have hany : anyLive (s.pass p).engine.table = true := anyLive_iff.2 hlive
    exact atEngine_refused hoffered (by rw [setTimebaseAt, if_neg hdivider, if_pos hany])
  · have hnone : ¬anyLive (s.pass p).engine.table = true := fun h => by
      obtain ⟨i, hi⟩ := anyLive_iff.1 h
      exact absurd ((hidle i).symm.trans hi) (by decide)
    refine (atEngine_taken hoffered _).trans ?_
    rw [setTimebaseAt, if_neg hdivider, if_neg hnone]
    rfl
  · simp only [exec, execTimebaseDividerApply, hpath, State.reply_eq_answersIf]
    cases r.reply <;> rfl

/-- A command in execution is taken by its block as one happening. -/
theorem atBlock_taken {s : State} {p : Port} {c : Instr} (h : (s.port p).inExec = some c)
    (body : State → State × Response) : atBlock p c s body = .next ((body s).1.answers p (body s).2) :=
  (atBlock_cases s p c body).elim And.right fun ⟨hnot, _⟩ => absurd h hnot

theorem HoldState.code_eq (h : HoldState) : h.code = if h = .running then 0 else 1 := by cases h <;> rfl

/-- The bytes of a number are the claims' field. -/
theorem bytesOf_eq_field (n v : Nat) : bytesOf n v = field n v := by
  induction n with
  | zero => rfl
  | succ n ih =>
    have htop : v >>> (8 * n) = v / 256 ^ n := by rw [Nat.shiftRight_eq_div_pow, Nat.pow_mul]
    rw [bytesOf, ih, htop, field, field, List.range_succ_eq_map, List.map_cons, List.map_map]
    refine congrArg₂ _ rfl (List.map_congr_left fun k _ => ?_)
    rw [Function.comp_apply, show n + 1 - 1 - (k + 1) = n - 1 - k by omega]

/-- Settles O35: each is one happening of the Timebase, which answers the hold state before it. -/
theorem timeHoldRunRead : Obligations.TimeHoldRunRead := by
  refine ⟨fun p s => ⟨fun hexec => ?_, fun hexec => ?_⟩, fun p s hexec => ?_⟩
  · refine (atBlock_taken hexec (setHold .held)).trans ?_
    rw [setHold, HoldState.code_eq]
    rfl
  · refine (atBlock_taken hexec (setHold .running)).trans ?_
    rw [setHold, HoldState.code_eq]
    rfl
  · simp only [exec, execReadTime]
    rw [atBlock_taken hexec, bytesOf_eq_field, HoldState.code_eq]

/-! ### The deadline list (R119, R128) -/

theorem offset_cases (now u : Time) :
    ((u - now).toNat ≤ 2 ^ 47 ∧ offset now u = (u - now).toNat) ∨
      (2 ^ 47 < (u - now).toNat ∧ offset now u = (u - now).toNat - 2 ^ 48) := by
  by_cases h : (u - now).toNat ≤ 2 ^ 47
  · exact .inl ⟨h, if_pos h⟩
  · exact .inr ⟨Nat.lt_of_not_le h, if_neg h⟩

/-- A time is reached exactly at offset 0 or less, and the offset is the difference modulo 2^48 (R119). -/
theorem offset_spec (now u : Time) : (reached now u = true ↔ offset now u ≤ 0) ∧ -(2 ^ 47 - 1) ≤ offset now u ∧
    offset now u ≤ 2 ^ 47 ∧ (offset now u - ((u.toNat : Int) - now.toNat)) % 2 ^ 48 = 0 := by
  have hnow := now.isLt
  have hu := u.isLt
  have hcases := offset_cases now u
  have hreached : reached now u = true ↔ (now - u).toNat < 2 ^ 47 := decide_eq_true_iff
  rw [BitVec.toNat_sub] at hcases hreached
  rw [hreached]
  refine ⟨?_, ?_, ?_, ?_⟩ <;> omega

/-- An entry enters behind those not after it and ahead of those after it (R128). -/
theorem insertDeadline_eq_filter {now : Time} {d : Deadline} {list : List Deadline}
    (h : list.Pairwise fun x y => offset now x.due ≤ offset now y.due) :
    insertDeadline now d list = (list.filter fun x => offset now x.due ≤ offset now d.due) ++
      d :: list.filter fun x => offset now d.due < offset now x.due := by
  induction list with
  | nil => rfl
  | cons x xs ih =>
    obtain ⟨hx, hxs⟩ := List.pairwise_cons.1 h
    unfold insertDeadline
    split
    · next hle => simp [hle, ih hxs]
    · next hgt =>
      have hafter : ∀ y ∈ x :: xs, offset now d.due < offset now y.due := by
        intro y hy
        rcases List.mem_cons.1 hy with rfl | hy
        · exact Int.lt_of_not_ge hgt
        · exact Int.lt_of_lt_of_le (Int.lt_of_not_ge hgt) (hx y hy)
      rw [List.filter_eq_nil_iff.2 fun y hy => by simpa using hafter y hy,
        List.filter_eq_self.2 fun y hy => by simpa using hafter y hy, List.nil_append]

theorem insertDeadline_pairwise {now : Time} {d : Deadline} {list : List Deadline}
    (h : list.Pairwise fun x y => offset now x.due ≤ offset now y.due) :
    (insertDeadline now d list).Pairwise fun x y => offset now x.due ≤ offset now y.due := by
  rw [insertDeadline_eq_filter h]
  refine List.pairwise_append.2 ⟨h.filter _, List.pairwise_cons.2 ⟨fun y hy => ?_, h.filter _⟩, fun x hx y hy => ?_⟩
  · exact Int.le_of_lt (by simpa using List.of_mem_filter hy)
  · have hxd : offset now x.due ≤ offset now d.due := by simpa using List.of_mem_filter hx
    rcases List.mem_cons.1 hy with rfl | hy
    · exact hxd
    · exact Int.le_trans hxd (Int.le_of_lt (by simpa using List.of_mem_filter hy))

/-- Settles O37: the offset is the signed difference, and an insertion divides a list in order. -/
theorem deadlineListOrdered : Obligations.DeadlineListOrdered :=
  ⟨offset_spec, fun _ _ _ h => ⟨insertDeadline_pairwise h, insertDeadline_eq_filter h⟩⟩

/-! ### What is derived from the state (R155, R175) -/

theorem any_toList_iff {α : Type} {n : Nat} (v : Vector α n) (f : α → Bool) :
    v.toList.any f = true ↔ ∃ i : Fin n, f v[i] = true := by
  rw [Vector.any_toList, Vector.any_eq_true, Fin.exists_iff]
  rfl

theorem OutputState.pulseRuns_iff (x : OutputState) (now : Time) :
    x.pulseRuns now = true ↔ ∃ e, x.pulseEnd = some e ∧ 2 ^ 47 ≤ (now - e).toNat := by
  simp [OutputState.pulseRuns, reached, Option.any_eq_true]

theorem OutputState.active_iff (x : OutputState) (now : Time) : x.active now = true ↔
    x.force = .on ∨ x.force = .auto ∧ (x.mode = .latch ∧ (∃ i : Idx, x.drivers[i] = true) ∨
      x.mode = .pulse ∧ ∃ e, x.pulseEnd = some e ∧ 2 ^ 47 ≤ (now - e).toNat) := by
  rw [← OutputState.pulseRuns_iff]
  unfold OutputState.active
  cases x.force with
  | on | off => simp
  | auto =>
    cases x.mode with
    | latch => simpa using any_toList_iff x.drivers id
    | pulse => simp

theorem OutputState.pin_iff (x : OutputState) (now : Time) :
    x.pin now = true ↔ (x.active now = true ↔ x.polarity = .activeHigh) := by
  unfold OutputState.pin
  cases x.polarity <;> simp

theorem NoticeState.asserted_iff (x : NoticeState) :
    x.asserted = true ↔ x.enable = true ∧ ∃ i : Idx, x.pending[i] ≠ none := by
  rw [NoticeState.asserted, Bool.and_eq_true, NoticeState.any, any_toList_iff]
  simp only [Option.isSome_iff_ne_none]

/-- Settles O53: the cases of force, mode and polarity (R155), and of the pending set (R175). -/
theorem pinsDerived : Obligations.PinsDerived :=
  ⟨fun x now => ⟨x.active_iff now, x.pin_iff now⟩, NoticeState.asserted_iff⟩

end Sys2Proof.Machine

/-! PROOFS. Event lines: SET_LINE at the engine (O38), the applying of its configuration and the level report (O39), and
the commands the Line Unit takes directly (O40). -/

namespace Sys2Proof.Machine

open Sys2Proof

/-! ### Operand bytes (R201, R204) -/

theorem indexOf_of_toNat {n : Nat} {b : Byte} {i : Fin n} (h : b.toNat = i.val) : indexOf n b = some i := by
  have hlt : b.toNat < n := h ▸ i.isLt
  rw [indexOf, dif_pos hlt]
  exact congrArg some (Fin.ext h)

theorem indexOf_eq_none {n : Nat} {b : Byte} (h : n ≤ b.toNat) : indexOf n b = none := dif_neg (Nat.not_lt.2 h)

theorem onOffOf_yesNo (b : Bool) : onOffOf (yesNo b) = some b := by cases b <;> rfl

theorem polarityOf_code (q : Polarity) : polarityOf q.code = some q := by cases q <;> rfl

theorem onOffOf_eq_none {b : Byte} (h : 1 < b.toNat) : onOffOf b = none := by
  have hne : ∀ x : Byte, x.toNat ≤ 1 → b ≠ x := by rintro x hx rfl; omega
  simp [onOffOf, hne]

theorem polarityOf_eq_none {b : Byte} (h : 1 < b.toNat) : polarityOf b = none := by
  have hne : ∀ x : Byte, x.toNat ≤ 1 → b ≠ x := by rintro x hx rfl; omega
  simp [polarityOf, hne]

/-- The operands that stand for a configuration are read back as it. -/
theorem readConfig_codes (cfg : LineConfig) :
    readConfig (yesNo cfg.enable) cfg.polarity.code (cfg.filter.setWidth 8) = some cfg := by
  have hfilter : indexOf 16 (cfg.filter.setWidth 8) = some cfg.filter.toFin :=
    indexOf_of_toNat (BitVec.toNat_setWidth_of_le (by decide))
  rw [readConfig, onOffOf_yesNo, polarityOf_code, hfilter]
  rfl

theorem readConfig_eq_none {enable polarity filter : Byte}
    (h : 1 < enable.toNat ∨ 1 < polarity.toNat ∨ 15 < filter.toNat) : readConfig enable polarity filter = none := by
  rcases h with h | h | h
  · simp [readConfig, onOffOf_eq_none h]
  · simp [readConfig, polarityOf_eq_none h]
  · simp [readConfig, indexOf_eq_none (n := 16) h]

/-! ### SET_LINE at the engine (R141, R142) -/

theorem lineInUse_iff {T : Table} {l : Line} : lineInUse T l = true ↔
    T.listenersOf l ≠ [] ∨ ∃ i, (T.watch i).live = true ∧ l ∈ (T.watch i).lines := by
  simp [lineInUse, allWatches]

theorem disturbs_iff {before after : LineConfig} : disturbs before after = true ↔
    before.enable = true ∧ after.enable = false ∨ before.polarity ≠ after.polarity := by
  simp [disturbs]

theorem alters_iff {before after : LineConfig} : alters before after = true ↔
    before.enable ≠ after.enable ∨ before.polarity ≠ after.polarity := by
  simp [alters]

theorem setLineAt_outOfRange {line enable polarity filter : Byte} (p : Port) (s : State)
    (h : 23 < line.toNat ∨ 1 < enable.toNat ∨ 1 < polarity.toNat ∨ 15 < filter.toNat) :
    setLineAt p line enable polarity filter s = (s, some (.refuse .badArgument)) := by
  rcases h with h | h
  · rw [setLineAt, indexOf_eq_none h]
  · rw [setLineAt, readConfig_eq_none h]
    cases indexOf 24 line <;> rfl

/-- A SET_LINE of a line is refused LINE_IN_USE (R141): the line is marked, or in use and disturbed. -/
def SetLineRefused (s : State) (l : Line) (cfg : LineConfig) : Prop :=
  (s.view l).mark = true ∨
    (s.engine.table.listenersOf l ≠ [] ∨ ∃ i, (s.engine.watch i).live = true ∧ l ∈ (s.engine.watch i).lines) ∧
      ((s.line l).config.enable = true ∧ cfg.enable = false ∨ (s.line l).config.polarity ≠ cfg.polarity)

theorem setLineRefused_iff {s : State} {l : Line} {cfg : LineConfig} : SetLineRefused s l cfg ↔
    (s.view l).mark = true ∨ (lineInUse s.engine.table l && disturbs (s.line l).config cfg) = true := by
  rw [Bool.and_eq_true, lineInUse_iff, disturbs_iff]
  rfl

section Named

variable {line enable polarity filter : Byte} {l : Line} {cfg : LineConfig} (p : Port) (s : State)
  (hl : indexOf 24 line = some l) (hcfg : readConfig enable polarity filter = some cfg)

include hl hcfg

theorem setLineAt_of_refused (h : SetLineRefused s l cfg) :
    setLineAt p line enable polarity filter s = (s, some (.refuse .lineInUse)) := by
  simp only [setLineAt, hl, hcfg]
  split
  · rfl
  · next hmark => exact if_pos ((setLineRefused_iff.1 h).resolve_left hmark)

theorem setLineAt_of_not_refused (h : ¬SetLineRefused s l cfg) :
    setLineAt p line enable polarity filter s = (forwardLine p l cfg s, none) := by
  obtain ⟨hmark, hfree⟩ := not_or.1 (mt setLineRefused_iff.2 h)
  simp only [setLineAt, hl, hcfg]
  rw [if_neg hmark, if_neg hfree]

end Named

/-- Settles O38: the operands, the two refusals of the line, and what leaves on the configuration path. -/
theorem setLineForwarded : Obligations.SetLineForwarded := by
  intro p line enable polarity filter s hoffered
  refine ⟨fun hbad => atEngine_refused hoffered (setLineAt_outOfRange p _ hbad), ?_⟩
  rintro l cfg hline rfl rfl rfl
  have hl := indexOf_of_toNat hline
  have hcfg := readConfig_codes cfg
  refine ⟨fun hrefused => ?_, fun hsound => ?_⟩
  · exact atEngine_refused hoffered (setLineAt_of_refused p (s.pass p) hl hcfg hrefused)
  · refine (atEngine_taken hoffered _).trans ?_
    rw [setLineAt_of_not_refused p (s.pass p) hl hcfg hsound]
    simp only [forwardLine, alters_iff]
    rfl

/-! ### SET_LINE_APPLY and LEVEL_REPORT (R144, R145) -/

theorem logical_eq (pol : Polarity) (pin : Bool) : logical pol pin =
    if pol = .normal then (if pin then .high else .low) else if pin then .low else .high := by
  cases pol <;> cases pin <;> rfl

theorem Level.flip_eq (v : Level) : v.flip = if v = .low then .high else .low := by cases v <;> rfl

/-- The accepted level by the table of R144. -/
theorem levelAfter_eq (x : LineState) (cfg : LineConfig) (pin : Bool) : levelAfter x cfg pin =
    if cfg.enable = false then .low
    else if x.config.enable = false then
      (if cfg.polarity = .normal then (if pin then .high else .low) else if pin then .low else .high)
    else if x.config.polarity = cfg.polarity then x.accepted
    else if x.accepted = .low then .high else .low := by
  simp only [levelAfter, logical_eq, Level.flip_eq, Bool.not_eq_true', ne_eq, ite_not]

/-- The level report carries a loss mark when a change of the filter alone discards queued edges (R144). -/
theorem lossMark_eq (x : LineState) (cfg : LineConfig) :
    (!x.queue.isEmpty && x.config.enable && cfg.enable && decide (x.config.polarity = cfg.polarity)) =
      decide (x.queue ≠ [] ∧ x.config.enable = true ∧ cfg.enable = true ∧ x.config.polarity = cfg.polarity) := by
  cases x.queue <;> simp [Bool.and_assoc]

theorem exec_setLineApply {s : State} {r : LineReq} {rest : List LineReq} (h : s.linePath = r :: rest)
    (pins : BitVec 24) : exec (.setLineApply pins) s =
      .next (({ s with linePath := rest, pins := pins } : State).setLine r.line
        (applyConfig (s.line r.line) r.config (pins.getLsbD r.line.val) s.time.now r.reply)) := by
  simp only [exec, execSetLineApply, h]

theorem exec_levelReport {s : State} {l : Line} {r : LevelReport} (h : (s.line l).report = some r) :
    exec (.levelReport l) s =
      .next ((takeReport (s.setLine l { s.line l with report := none }) l r).answersIf r.reply
        (.ok [r.level.code])) := by
  simp only [exec, execLevelReport, h, State.reply_eq_answersIf]

/-- A taken report leaves the line's view as it says, without the mark; a loss mark alone is served, with the mark
still in the view. -/
theorem takeReport_eq (s : State) (l : Line) (r : LevelReport) : takeReport s l r = s.setEngine { s.engine with
    view := s.engine.view.set l { enabled := r.enable, delivered := r.level, mark := false }
    table := if r.lost then
        serveLine
          { now := s.time.now
            view := s.engine.view.set l { s.view l with enabled := r.enable, delivered := r.level } }
          s.engine.table l { dir := .rise, stamp := r.stamp, lost := true }
      else s.engine.table } := by
  cases hlost : r.lost <;>
    simp [takeReport, hlost, State.setView, State.view, State.setEngine, State.ctx, Engine.withTable]

theorem State.answersIf_setEngine (s : State) (e : Engine) (dest : Option Port) (r : Response) :
    (s.setEngine e).answersIf dest r = { s.answersIf dest r with engine := e } := by
  cases dest <;> rfl

/-- Settles O39: the table of R144, and the report of R145 with and without its loss mark. -/
theorem lineApplyAndReport : Obligations.LineApplyAndReport := by
  refine ⟨fun pins r rest s hpath => ?_, fun l r s hreport => ⟨fun hlost => ?_, fun hlost => ⟨.rise, ?_⟩⟩⟩
  · rw [exec_setLineApply hpath, applyConfig, levelAfter_eq, lossMark_eq]
    rfl
  all_goals
    rw [exec_levelReport hreport, takeReport_eq, State.answersIf_setEngine, hlost]
    rfl

/-! ### The commands the Line Unit takes directly (R138, R147 to R150) -/

theorem onLine_named {b : Byte} {l : Line} (h : b.toNat = l.val) (k : Line → State × Response) (s : State) :
    onLine b k s = k l := by
  rw [onLine, indexOf_of_toNat h]

theorem onLine_outOfRange {b : Byte} (h : 23 < b.toNat) (k : Line → State × Response) (s : State) :
    onLine b k s = (s, .refuse .badArgument) := by
  rw [onLine, indexOf_eq_none h]

theorem lineBytes_eq (x : LineState) (v : LineView) : lineBytes x v =
    [if x.config.enable then 1 else 0, x.config.polarity.code, x.config.filter.setWidth 8,
        if x.masked then 1 else 0, x.accepted.code, v.delivered.code] ++ field 2 x.edgeCount.toNat ++
      [x.lostCount, BitVec.ofNat 8 x.queue.length, if x.queue.any Edge.lost then 1 else 0] := by
  rw [lineBytes, bytesOf_eq_field]
  rfl

/-- The number of a map is the sum of its marks' bits (R197). -/
theorem mapNumber_ofFn {n : Nat} (marks : Fin n → Bool) : mapNumber (List.ofFn marks) = markMap marks := by
  induction n with
  | zero => rfl
  | succ n ih =>
    have hcons : mapNumber (List.ofFn marks) =
        (if marks 0 then 1 else 0) + 2 * mapNumber (List.ofFn fun k => marks k.succ) := by
      rw [List.ofFn_succ]
      rfl
    rw [hcons, ih, markMap, markMap, Fin.sum_univ_succ, Finset.mul_sum]
    refine congrArg₂ _ rfl (Finset.sum_congr rfl fun k _ => ?_)
    rw [mul_ite, mul_zero, Fin.val_succ, pow_succ']

theorem levelsMap_eq (s : State) : levelsMap s.lineUnit = markMap fun l : Line => (s.line l).accepted = .high := by
  have hmarks : (s.lineUnit.lines.toList.map fun x => decide (x.accepted = .high)) =
      List.ofFn fun l : Line => decide ((s.line l).accepted = .high) :=
    List.ext_getElem (by simp) fun k _ _ => by
      simp only [List.getElem_map, List.getElem_ofFn, Vector.getElem_toList]
      rfl
  rw [levelsMap, hmarks, mapNumber_ofFn]

theorem exec_line_outOfRange {s : State} {p : Port} {b : Byte} {c : Instr}
    (hc : c ∈ [Instr.maskLine p b, .unmaskLine p b, .readLine p b]) (hexec : (s.port p).inExec = some c)
    (hb : 23 < b.toNat) : exec c s = .next (s.answers p (.refuse .badArgument)) := by
  simp only [List.mem_cons, List.not_mem_nil, or_false] at hc
  rcases hc with rfl | rfl | rfl
  · exact (atBlock_taken hexec (maskAt b)).trans (by rw [maskAt, onLine_outOfRange hb])
  · exact (atBlock_taken hexec (unmaskAt b)).trans (by rw [unmaskAt, onLine_outOfRange hb])
  · simp only [exec, execReadLine]
    rw [atBlock_taken hexec, onLine_outOfRange hb]

/-- Settles O40: each is one happening of the Line Unit on the line its operand names, or on all of them. -/
theorem lineUnitCommandsAnswer : Obligations.LineUnitCommandsAnswer := by
  intro p s
  refine ⟨fun b c hc hexec hb => exec_line_outOfRange hc hexec hb,
    fun b l hl => ⟨fun hexec => ?_, fun hexec => ?_, fun hexec => ?_⟩, fun hexec => ?_,
    fun divider hexec => ⟨fun hzero => ?_, fun hdivider => ?_⟩⟩
  · refine (atBlock_taken hexec (maskAt b)).trans ?_
    rw [maskAt, onLine_named hl]
    rfl
  · refine (atBlock_taken hexec (unmaskAt b)).trans ?_
    rw [unmaskAt, onLine_named hl]
    rfl
  · simp only [exec, execReadLine]
    rw [atBlock_taken hexec, onLine_named hl, lineBytes_eq]
  · simp only [exec, execReadLevels]
    rw [atBlock_taken hexec, bytesOf_eq_field, levelsMap_eq]
  · refine (atBlock_taken hexec (setSamplingAt divider)).trans ?_
    rw [setSamplingAt, if_pos hzero]
  · refine (atBlock_taken hexec (setSamplingAt divider)).trans ?_
    rw [setSamplingAt, if_neg hdivider]
    rfl

end Sys2Proof.Machine

/-! PROOFS. Outputs: the output actions, the purge and the end of a pulse (O42), and the host output commands at the
engine and at the Output Unit (O43). -/

namespace Sys2Proof.Machine

open Sys2Proof

/-! ### The end of a happening on an output (R155, R156) -/

/-- The activation count rises exactly where the output becomes active. -/
theorem OutputState.settle_eq (x y : OutputState) (now : Time) : x.settle y now =
    if x.active now = false ∧ y.active now = true then { y with count := y.count + 1 } else y := by
  simp [OutputState.settle]

theorem OutputState.settle_of_active_imp {x y : OutputState} {now : Time}
    (h : y.active now = true → x.active now = true) : x.settle y now = y := by
  rw [OutputState.settle_eq, if_neg]
  rintro ⟨hbefore, hafter⟩
  simp [h hafter] at hbefore

/-- The withdrawing of a claim makes no output active. -/
theorem OutputState.active_of_withoutClaim {x : OutputState} {w : Idx} {now : Time}
    (h : ({ x with drivers := x.drivers.set w false } : OutputState).active now = true) : x.active now = true := by
  rw [OutputState.active_iff] at h ⊢
  refine h.imp_right (And.imp_right (Or.imp_left (And.imp_right ?_)))
  rintro ⟨i, hi⟩
  refine ⟨i, ?_⟩
  simp only [Fin.getElem_fin, Vector.getElem_set] at hi
  split at hi
  · cases hi
  · exact hi

/-- The end of a pulse makes no output active. -/
theorem OutputState.active_of_withoutPulse {x : OutputState} {now : Time}
    (h : ({ x with pulseEnd := none } : OutputState).active now = true) : x.active now = true := by
  rw [OutputState.active_iff] at h ⊢
  refine h.imp_right (And.imp_right (Or.imp_right (And.imp_right ?_)))
  rintro ⟨e, he, -⟩
  cases he

/-- A purge raises no activation count (R159). -/
theorem purgeOutput_eq (w : Idx) (now : Time) (x : OutputState) :
    purgeOutput w now x = { x with drivers := x.drivers.set w false } :=
  OutputState.settle_of_active_imp OutputState.active_of_withoutClaim

/-- The change of an output, with the head of the path taken, written out. -/
theorem State.changeOutput_taken (s : State) (rest : List OutReq) (o : Output) (f : OutputState → OutputState) :
    (s.setOutPath rest).changeOutput o f = (s.setOutput o (
      if (s.output o).active s.time.now = false ∧ (f (s.output o)).active s.time.now = true then
        { f (s.output o) with count := (f (s.output o)).count + 1 }
      else f (s.output o))).setOutPath rest := by
  rw [← OutputState.settle_eq]
  rfl

/-! ### Output actions, purge and pulse end (R154, R158, R159) -/

theorem applyAction_set (w : Idx) (now : Time) (x : OutputState) : applyAction .set w now x =
    if x.mode = .latch then { x with drivers := x.drivers.set w true }
    else { x with pulseEnd := some (now + x.width.setWidth 48) } := by
  cases hmode : x.mode <;> simp [applyAction, hmode]

theorem applyAction_clear (w : Idx) (now : Time) (x : OutputState) : applyAction .clear w now x =
    if x.mode = .latch then { x with drivers := x.drivers.set w false } else { x with pulseEnd := none } := by
  cases hmode : x.mode <;> simp [applyAction, hmode]

theorem takeAction_head {s : State} {kind : OutKind} {o : Output} {w : Idx} {rest : List OutReq}
    (h : s.engine.table.outPath = .action kind o w :: rest) :
    takeAction kind s = .next ((s.setOutPath rest).changeOutput o (applyAction kind w s.time.now)) := by
  simp only [takeAction, h, if_true]

theorem exec_outputPurge {s : State} {i : Idx} {rest : List OutReq} (h : s.engine.table.outPath = .purge i :: rest) :
    exec .outputPurge s =
      .next { s.setOutPath rest with outputs := s.outputs.map (purgeOutput i s.time.now) } := by
  simp only [exec, execOutputPurge, h]

/-- A reached pulse end is made absent, and no count rises. -/
theorem exec_pulseEnd_reached {s : State} {o : Output} {e : Time} (hend : (s.output o).pulseEnd = some e)
    (hreached : (s.time.now - e).toNat < 2 ^ 47) :
    exec (.pulseEnd o) s = .next (s.setOutput o { s.output o with pulseEnd := none }) := by
  have hdue : (s.output o).pulseEnd.any (reached s.time.now) = true := by
    rw [hend]
    exact decide_eq_true hreached
  simp only [exec, execPulseEnd]
  rw [if_pos hdue, State.changeOutput, OutputState.settle_of_active_imp OutputState.active_of_withoutPulse]

/-- Settles O42: each action is its case of R158, and neither a purge nor a pulse end makes an output active. -/
theorem outputActionsApply : Obligations.OutputActionsApply := by
  intro s
  refine ⟨fun o w rest hpath => ?_, fun o w rest hpath => ?_, fun o w rest hpath => ?_, fun i rest hpath => ?_,
    fun o e hend hreached => exec_pulseEnd_reached hend hreached⟩
  · refine (takeAction_head hpath).trans ?_
    rw [State.changeOutput_taken, applyAction_set]
    rfl
  · refine (takeAction_head hpath).trans ?_
    rw [State.changeOutput_taken, applyAction_clear]
    rfl
  · refine (takeAction_head hpath).trans ?_
    rw [State.changeOutput_taken]
    rfl
  · refine ⟨_, exec_outputPurge hpath, rfl, fun o => ?_⟩
    rw [← purgeOutput_eq i s.time.now]
    exact Vector.getElem_map ..

/-! ### Operand bytes of the host output commands (R161, R162) -/

theorem outModeOf_code (m : OutMode) : outModeOf m.code = some m := by cases m <;> rfl

theorem outPolarityOf_code (q : OutPolarity) : outPolarityOf q.code = some q := by cases q <;> rfl

theorem forceOf_code (f : Force) : forceOf f.code = some f := by cases f <;> rfl

theorem outModeOf_eq_none {b : Byte} (h : 1 < b.toNat) : outModeOf b = none := by
  have hne : ∀ x : Byte, x.toNat ≤ 1 → b ≠ x := by rintro x hx rfl; omega
  simp [outModeOf, hne]

theorem outPolarityOf_eq_none {b : Byte} (h : 1 < b.toNat) : outPolarityOf b = none := by
  have hne : ∀ x : Byte, x.toNat ≤ 1 → b ≠ x := by rintro x hx rfl; omega
  simp [outPolarityOf, hne]

theorem forceOf_eq_none {b : Byte} (h : 2 < b.toNat) : forceOf b = none := by
  have hne : ∀ x : Byte, x.toNat ≤ 2 → b ≠ x := by rintro x hx rfl; omega
  simp [forceOf, hne]

theorem readSetOutput_named {b : Byte} {o : Output} {width : BitVec 16} (hb : b.toNat = o.val) (hwidth : width ≠ 0)
    (p : Port) (mode : OutMode) (pol : OutPolarity) :
    readSetOutput p b mode.code width pol.code = some (.setOutput p o mode width pol) := by
  rw [readSetOutput, indexOf_of_toNat hb, outModeOf_code, outPolarityOf_code]
  exact if_neg hwidth

theorem readSetOutput_eq_none {b m q : Byte} {width : BitVec 16}
    (h : 7 < b.toNat ∨ 1 < m.toNat ∨ width = 0 ∨ 1 < q.toNat) (p : Port) : readSetOutput p b m width q = none := by
  rcases h with h | h | rfl | h
  · simp [readSetOutput, indexOf_eq_none (n := 8) h]
  · simp [readSetOutput, outModeOf_eq_none h]
  · simp [readSetOutput]
  · simp [readSetOutput, outPolarityOf_eq_none h]

theorem readForceOutput_named {b : Byte} {o : Output} (hb : b.toNat = o.val) (p : Port) (force : Force) :
    readForceOutput p b force.code = some (.forceOutput p o force) := by
  rw [readForceOutput, indexOf_of_toNat hb, forceOf_code]
  rfl

theorem readForceOutput_eq_none {b f : Byte} (h : 7 < b.toNat ∨ 2 < f.toNat) (p : Port) :
    readForceOutput p b f = none := by
  rcases h with h | h
  · simp [readForceOutput, indexOf_eq_none (n := 8) h]
  · simp [readForceOutput, forceOf_eq_none h]

/-! ### Host output commands at the engine (R160) -/

/-- The request of a command leaves behind all sent before, and the command stays in execution. -/
theorem atEngine_forwarded {s : State} {p : Port} {c : Instr} (h : Offered s p c) {r : Option OutReq} {q : OutReq}
    (hr : r = some q) : atEngine p c s (forwardOutput r) = .next (s.engineTook p
      (s.engine.withTable { s.engine.table with outPath := s.engine.table.outPath ++ [q] }) none) := by
  subst hr
  exact atEngine_taken h _

theorem atEngine_notForwarded {s : State} {p : Port} {c : Instr} (h : Offered s p c) {r : Option OutReq}
    (hr : r = none) : atEngine p c s (forwardOutput r) =
      .next (s.engineAnswers p s.engine (.refuse .badArgument)) := by
  subst hr
  exact atEngine_refused h rfl

/-! ### Host output commands at the unit (R161 to R164, R210) -/

theorem toList_eq_ofFn {α : Type} {n : Nat} (v : Vector α n) : v.toList = List.ofFn fun i : Fin n => v[i] :=
  List.ext_getElem (by simp) fun k _ _ => by simp

/-- The number of an output's drivers, counted over the set of all watches (R163). -/
theorem OutputState.members_eq_card (x : OutputState) :
    x.members = (Finset.univ.filter fun i : Idx => x.drivers[i] = true).card := by
  rw [OutputState.members, toList_eq_ofFn, List.ofFn_eq_map, List.count, List.countP_map, List.countP_eq_length_filter]
  rfl

theorem OutputState.pulseRemaining_eq (x : OutputState) (now : Time) : x.pulseRemaining now =
    match x.pulseEnd with
    | some e => if (now - e).toNat < 2 ^ 47 then 0 else (e - now).toNat
    | none => 0 := by
  unfold OutputState.pulseRemaining
  cases hend : x.pulseEnd with
  | none => rfl
  | some e =>
    simp only [OutputState.pulseRuns, hend, Option.any_some, reached, Bool.not_eq_true', decide_eq_false_iff_not,
      ite_not]

theorem outputBytes_eq (x : OutputState) (now : Time) : outputBytes x now =
    [x.mode.code] ++ field 2 x.width.toNat ++ [x.polarity.code, x.force.code, if x.active now then 1 else 0] ++
      field 8 (markMap fun i : Idx => x.drivers[i]) ++
      field 2 (match x.pulseEnd with
        | some e => if (now - e).toNat < 2 ^ 47 then 0 else (e - now).toNat
        | none => 0) ++
      field 2 x.count.toNat := by
  simp only [outputBytes, bytesOf_eq_field, toList_eq_ofFn, mapNumber_ofFn, OutputState.pulseRemaining_eq]
  rfl

theorem exec_readOutputApply {s : State} {p : Port} {o : Output} {rest : List OutReq}
    (h : s.engine.table.outPath = .readOutput p o :: rest) : exec .readOutputApply s =
      .next ((s.setOutPath rest).answers p (.ok (outputBytes (s.output o) s.time.now))) := by
  simp only [exec, execReadOutputApply, h, State.complete_eq_answers]

/-- Settles O43: the operands and the request on the path at the engine (R160), and the effect and the response of
each command at the unit. -/
theorem hostOutputCommandsServed : Obligations.HostOutputCommandsServed := by
  refine ⟨fun p s => ⟨fun b m width q hoffered => ⟨fun hbad => ?_, ?_⟩, fun b f hoffered => ⟨fun hbad => ?_, ?_⟩,
    fun b hoffered => ⟨fun hbad => ?_, fun o hb => ?_⟩, fun b hoffered => ⟨fun hbad => ?_, fun o hb => ?_⟩⟩,
    fun p o rest s => ⟨fun mode width pol hpath => ?_, fun force hpath => ?_, fun hpath => ?_, fun hpath => ?_⟩⟩
  · exact atEngine_notForwarded hoffered (readSetOutput_eq_none hbad p)
  · rintro o mode pol hb rfl rfl hwidth
    exact atEngine_forwarded hoffered (readSetOutput_named hb hwidth p mode pol)
  · exact atEngine_notForwarded hoffered (readForceOutput_eq_none hbad p)
  · rintro o force hb rfl
    exact atEngine_forwarded hoffered (readForceOutput_named hb p force)
  · exact atEngine_notForwarded hoffered (congrArg _ (indexOf_eq_none hbad))
  · exact atEngine_forwarded hoffered (congrArg _ (indexOf_of_toNat hb))
  · exact atEngine_notForwarded hoffered (congrArg _ (indexOf_eq_none hbad))
  · exact atEngine_forwarded hoffered (congrArg _ (indexOf_of_toNat hb))
  · simp only [exec, execSetOutputApply, hpath, State.changeOutput_taken, State.complete_eq_answers]
  · simp only [exec, execForceOutputApply, hpath, State.changeOutput_taken, State.complete_eq_answers]
  · simp only [exec, execReleaseOutputApply, hpath, State.changeOutput_taken, State.complete_eq_answers,
      OutputState.members_eq_card]
  · exact (exec_readOutputApply hpath).trans
      (congrArg (fun bytes => Host.Outcome.next ((s.setOutPath rest).answers p (.ok bytes))) (outputBytes_eq ..))

end Sys2Proof.Machine

/-! PROOFS. Notices: the request path (O44), and the commands the Notice Unit takes directly (O45, O46). -/

namespace Sys2Proof.Machine

open Sys2Proof

/-! ### A pending set (R166) -/

theorem countP_toList_eq_card {α : Type} {n : Nat} (v : Vector α n) (f : α → Bool) :
    v.toList.countP f = (Finset.univ.filter fun i : Fin n => f v[i] = true).card := by
  have hmark : (f ∘ fun i : Fin n => v[i]) = fun i => decide (f v[i] = true) := funext fun i => by simp
  rw [toList_eq_ofFn, List.ofFn_eq_map, List.countP_map, List.countP_eq_length_filter, hmark]
  rfl

namespace NoticeState

variable (x : NoticeState)

/-- A post enters under its own index, marked when it replaces an entry (R168). -/
theorem place_pending (n : Snapshot) (i : Idx) : (x.place n).pending[i] =
    if i = n.index then some { snap := n, overrun := x.pending[i].isSome } else x.pending[i] := by
  simp only [place, Fin.getElem_fin, Vector.getElem_set, Fin.ext_iff, eq_comm (a := i.val)]
  split
  · next hi => simp only [hi]
  · rfl

theorem remove_pending (i j : Idx) : (x.remove i).pending[j] = if j = i then none else x.pending[j] := by
  simp only [remove, Fin.getElem_fin, Vector.getElem_set, Fin.ext_iff, eq_comm (a := j.val)]

theorem count_eq_card : x.count = (Finset.univ.filter fun i : Idx => x.pending[i] ≠ none).card := by
  simp only [count, countP_toList_eq_card, Option.isSome_iff_ne_none]

/-- The removal of an entry leaves one entry fewer. -/
theorem remove_count {i : Idx} (h : x.pending[i] ≠ none) :
    (x.remove i).count = (Finset.univ.filter fun j : Idx => x.pending[j] ≠ none).card - 1 := by
  have hothers : (Finset.univ.filter fun j : Idx => (x.remove i).pending[j] ≠ none) =
      (Finset.univ.filter fun j : Idx => x.pending[j] ≠ none).erase i := by
    ext j
    simp only [Finset.mem_filter, Finset.mem_univ, Finset.mem_erase, true_and, remove_pending]
    by_cases hj : j = i <;> simp [hj]
  rw [count_eq_card, hothers, Finset.card_erase_of_mem (by simpa using h)]

theorem lowest_eq_none (h : ∀ i : Idx, x.pending[i] = none) : x.lowest = none :=
  List.findSome?_eq_none_iff.2 fun i _ => h i

theorem lowest_eq_some {i : Idx} {n : Notice} (hi : x.pending[i] = some n) (hbelow : ∀ j < i, x.pending[j] = none) :
    x.lowest = some n := by
  rw [lowest, allWatches, ← Fin.findSome?_eq_findSome?_finRange, Fin.findSome?_eq_some_iff]
  exact ⟨i, hi, hbelow⟩

end NoticeState

/-! ### The notice request path (R168, R169) -/

theorem Route.names_iff (route : Route) (q : Port) :
    route.names q = true ↔ route = .both ∨ route = .a ∧ q = .A ∨ route = .b ∧ q = .B := by
  cases route <;> cases q <;> decide

theorem exec_noticePost {s : State} {route : Route} {n : Snapshot} {rest : List NoticeReq}
    (h : s.engine.table.noticePath = .post route n :: rest) : exec .noticePost s =
      .next { s.setNoticePath rest with notices := {
        a := if route.names .A then (s.notice .A).place n else s.notice .A
        b := if route.names .B then (s.notice .B).place n else s.notice .B } } := by
  simp only [exec, execNoticePost, h]

theorem exec_noticePurge {s : State} {i : Idx} {rest : List NoticeReq}
    (h : s.engine.table.noticePath = .purge i :: rest) : exec .noticePurge s =
      .next { s.setNoticePath rest with
        notices := { a := (s.notice .A).remove i, b := (s.notice .B).remove i } } := by
  simp only [exec, execNoticePurge, h]

/-- What a post leaves in one port's pending set, named by its route or not. -/
theorem posted_pending (x : NoticeState) (route : Route) (q : Port) (n : Snapshot) (i : Idx) :
    (if route.names q then x.place n else x).pending[i] =
      if i = n.index ∧ (route = .both ∨ route = .a ∧ q = .A ∨ route = .b ∧ q = .B) then
        some { snap := n, overrun := x.pending[i].isSome }
      else x.pending[i] := by
  simp only [← Route.names_iff]
  split
  · next hnamed => simp only [x.place_pending, hnamed, and_true]
  · next hnot => exact (if_neg fun h => hnot h.2).symm

theorem posted_enable (x : NoticeState) (route : Route) (q : Port) (n : Snapshot) :
    (if route.names q then x.place n else x).enable = x.enable := by
  split <;> rfl

/-- Settles O44: each pending set by itself, for the post as its route says, for the purge always. -/
theorem noticePathTaken : Obligations.NoticePathTaken := by
  intro s
  refine ⟨fun route n rest hpath => ⟨_, exec_noticePost hpath, rfl, fun q => ?_⟩,
    fun i rest hpath => ⟨_, exec_noticePurge hpath, rfl, fun q => ?_⟩⟩
  · cases q with
    | A => exact ⟨posted_enable _ route .A n, posted_pending _ route .A n⟩
    | B => exact ⟨posted_enable _ route .B n, posted_pending _ route .B n⟩
  · cases q with
    | A => exact ⟨rfl, (s.notice .A).remove_pending i⟩
    | B => exact ⟨rfl, (s.notice .B).remove_pending i⟩

/-! ### The commands of a port (R170 to R174, R208) -/

theorem noticeBytes_eq (n : Notice) (left : Nat) : noticeBytes n left =
    [1, BitVec.ofNat 8 left, BitVec.ofNat 8 n.snap.index.val] ++ field 2 n.snap.tag.toNat ++
      [n.snap.outcome.code, n.snap.cause.code,
        BitVec.ofNat 8 ((if n.snap.failing.isSome then 1 else 0) + (if n.overrun then 2 else 0)),
        BitVec.ofNat 8 (n.snap.failing.getD 0)] ++
      field 6 n.snap.concludedAt.toNat ++ field 2 n.snap.cycles.toNat := by
  have hflags : mapNumber [n.snap.failing.isSome, n.overrun] =
      (if n.snap.failing.isSome then 1 else 0) + (if n.overrun then 2 else 0) := by
    cases n.overrun <;> rfl
  simp only [noticeBytes, indexByte, flagByte, hflags, bytesOf_eq_field]

theorem takeNoticeAt_empty {p : Port} {s : State} (h : ∀ i : Idx, (s.notice p).pending[i] = none) :
    takeNoticeAt p s = (s, .ok (List.replicate 17 0)) := by
  rw [takeNoticeAt, NoticeState.lowest_eq_none _ h]

theorem takeNoticeAt_lowest {p : Port} {s : State} {n : Notice}
    (hentry : (s.notice p).pending[n.snap.index] = some n)
    (hbelow : ∀ j < n.snap.index, (s.notice p).pending[j] = none) :
    takeNoticeAt p s = (s.setNotice p ((s.notice p).remove n.snap.index), .ok (noticeBytes n
      ((Finset.univ.filter fun j : Idx => (s.notice p).pending[j] ≠ none).card - 1))) := by
  have hsome : (s.notice p).pending[n.snap.index] ≠ none := by simp [hentry]
  rw [← NoticeState.remove_count _ hsome, takeNoticeAt, NoticeState.lowest_eq_some _ hentry hbelow]

theorem yesNo_isSome {α : Type} (o : Option α) [Decidable (o = none)] :
    yesNo o.isSome = if o = none then 0 else 1 := by
  cases o <;> simp [yesNo]

theorem ackNoticeAt_named {b : Byte} {i : Idx} (h : b.toNat = i.val) (p : Port) (s : State) :
    ackNoticeAt p b s = (s.setNotice p ((s.notice p).remove i),
      .ok [if (s.notice p).pending[i] = none then 0 else 1]) := by
  rw [ackNoticeAt, indexOf_of_toNat h]
  simp only [yesNo_isSome]

theorem ackNoticeAt_outOfRange {b : Byte} (h : 63 < b.toNat) (p : Port) (s : State) :
    ackNoticeAt p b s = (s, .refuse .badArgument) := by
  rw [ackNoticeAt, indexOf_eq_none h]

theorem onOffOf_of_le {b : Byte} (h : b.toNat ≤ 1) : onOffOf b = some (decide (b = 1)) := by
  have hcases : b = 0 ∨ b = 1 := by bv_omega
  rcases hcases with rfl | rfl <;> rfl

theorem setNoticeEnableAt_of_le {b : Byte} (h : b.toNat ≤ 1) (p : Port) (s : State) :
    setNoticeEnableAt p b s = (s.setNotice p { s.notice p with enable := b = 1 },
      .ok [if (s.notice p).enable then 1 else 0]) := by
  rw [setNoticeEnableAt, onOffOf_of_le h]
  rfl

theorem setNoticeEnableAt_outOfRange {b : Byte} (h : 1 < b.toNat) (p : Port) (s : State) :
    setNoticeEnableAt p b s = (s, .refuse .badArgument) := by
  rw [setNoticeEnableAt, onOffOf_eq_none h]

/-- Settles O45: each command is one happening of the Notice Unit on the issuing port's side. -/
theorem noticeCommandsServed : Obligations.NoticeCommandsServed := by
  refine ⟨fun p s hexec => ⟨fun hempty => ?_, ?_⟩, fun p b s =>
    ⟨fun hexec => ⟨fun hbad => ?_, fun i hi => ?_⟩, fun hexec => ⟨fun hbad => ?_, fun hle => ?_⟩⟩⟩
  · refine (atBlock_taken hexec (takeNoticeAt p)).trans ?_
    rw [takeNoticeAt_empty hempty]
  · rintro i n hentry rfl hbelow
    refine (atBlock_taken hexec (takeNoticeAt p)).trans ?_
    rw [takeNoticeAt_lowest hentry hbelow, noticeBytes_eq]
    rfl
  · refine (atBlock_taken hexec (ackNoticeAt p b)).trans ?_
    rw [ackNoticeAt_outOfRange hbad]
  · refine (atBlock_taken hexec (ackNoticeAt p b)).trans ?_
    rw [ackNoticeAt_named hi]
    rfl
  · refine (atBlock_taken hexec (setNoticeEnableAt p b)).trans ?_
    rw [setNoticeEnableAt_outOfRange hbad]
  · refine (atBlock_taken hexec (setNoticeEnableAt p b)).trans ?_
    rw [setNoticeEnableAt_of_le hle]

theorem mapNumber_pending (x : NoticeState) : mapNumber (x.pending.toList.map Option.isSome) =
    markMap fun i : Idx => x.pending[i].isSome := by
  rw [toList_eq_ofFn, List.map_ofFn, mapNumber_ofFn]
  rfl

/-- Settles O46: the map and the count of one pending set (R171). -/
theorem peekNoticesAnswers : Obligations.PeekNoticesAnswers := by
  intro p s hexec
  simp only [exec, execPeekNotices]
  rw [atBlock_taken hexec, bytesOf_eq_field, mapNumber_pending, NoticeState.count_eq_card]

end Sys2Proof.Machine

/-! PROOFS. Command frames: the four faults of a frame (O4), the frame of every host command read back (O3), and the
port a frame's command is read for. -/

namespace Sys2Proof

/-! ### What a frame of a sound length reads as (R183, R187) -/

/-- The judgement of a frame whose bytes are sound (R187). -/
def FrameRead.ofCommand : CommandRead → FrameRead
  | .unknown => .unknown
  | .badLength => .badLength
  | .sound c => .sound c

theorem FrameRead.ofCommand_ne_faulty (r : CommandRead) : ofCommand r ≠ .faulty := by cases r <;> nofun

/-- A frame of a sound length is judged by its last byte, and read by its code and its payload. -/
theorem readFrame_of_length {len : Byte} {payload : List Byte} (hlen : payload.length = len.toNat)
    (hmax : len.toNat ≤ 28) (p : Port) (code last : Byte) :
    readFrame p (code :: len :: (payload ++ [last])) =
      if last = crc (code :: len :: payload) then .ofCommand (readCommand p code payload) else .faulty := by
  have hle : ¬Config.maxPayload < payload.length := Nat.not_lt.2 (hlen ▸ hmax)
  by_cases hlast : last = crc (code :: len :: payload)
  · subst hlast
    simp only [readFrame, hle, ← hlen, List.length_append, List.length_singleton, ne_eq, not_true_eq_false, if_false,
      List.take_left, List.getLast?_concat, if_true]
    cases readCommand p code payload <;> rfl
  · simp [readFrame, ← hlen, hlast]

/-! ### The faults of a frame (R183) -/

/-- Settles O4: too few bytes, too great a length, another number of bytes, and then the last byte alone decide. -/
theorem faultyFrames : Obligations.FaultyFrames := by
  intro p bytes
  match bytes with
  | [] | [_] => simp [readFrame]
  | code :: len :: rest =>
    by_cases hmax : 28 < len.toNat
    · simp [readFrame, Config.maxPayload, hmax]
    by_cases hlen : rest.length = len.toNat + 1
    · obtain ⟨payload, last, rfl⟩ : ∃ payload last, rest = payload ++ [last] :=
        ⟨_, _, (List.dropLast_append_getLast (List.ne_nil_of_length_eq_add_one hlen)).symm⟩
      have hpayload : payload.length = len.toNat := by simpa using hlen
      rw [readFrame_of_length hpayload (Nat.not_lt.1 hmax)]
      have hbody : (code :: len :: (payload ++ [last])).dropLast = code :: len :: payload :=
        List.dropLast_concat (l₁ := code :: len :: payload)
      have hlast : (code :: len :: (payload ++ [last])).getLast? = some last :=
        List.getLast?_concat (l := code :: len :: payload)
      rw [hbody, hlast]
      simp [hmax, hpayload, FrameRead.ofCommand_ne_faulty]
    · simp [readFrame, Config.maxPayload, hmax, hlen]

/-! ### The frame of a host command (R184, R204) -/

/-- A CRC carried on over itself is 00h (R184). -/
theorem crc_append_self (bytes : List Byte) : crc (bytes ++ [crc bytes]) = 0 := by
  have hself (c : Byte) : crcByte c c = 0 := by
    rw [crcByte, BitVec.xor_self]
    decide
  rw [crc, List.foldl_append]
  exact hself _

/-- A 16-bit operand is read back from the bytes sent for it (R197). -/
theorem halves_append (w : BitVec 16) : w.extractLsb' 8 8 ++ w.extractLsb' 0 8 = w :=
  BitVec.extractLsb'_append_extractLsb'

/-- The code and the payload a host sends for a command are read as that command (R187, R204). -/
theorem readCommand_codeAndPayload {c : Instr} {p : Port} (hwf : c.wf = true) (hissuer : c.issuer = some p) :
    ∃ code payload, c.codeAndPayload = some (code, payload) ∧ payload.length ≤ 28 ∧
      readCommand p code payload = .sound c := by
  cases c with
  | addStep q i d =>
    obtain rfl : q = p := Option.some.inj hissuer
    have hd : d.length = 20 := by simpa [Instr.wf] using hwf
    exact ⟨_, _, rfl, by simp [hd], by simp [readCommand, hd]⟩
  | setActions q i side n acts =>
    obtain rfl : q = p := Option.some.inj hissuer
    obtain ⟨a, b, c, d, rfl⟩ : ∃ a b c d, acts = [a, b, c, d] := List.length_eq_four.1 (by simpa [Instr.wf] using hwf)
    exact ⟨_, _, rfl, by simp, rfl⟩
  | create q | find q | setTimebase q | setOutput q =>
    obtain rfl : q = p := Option.some.inj hissuer
    exact ⟨_, _, rfl, by simp [halves], by simp [readCommand, halves, halves_append]⟩
  | sweepVisit | sweepStop | timebaseDividerApply | tick | setLineApply | levelReport | sample | edgeTaken
  | deadlineExpiry | outSet | outClear | outRelease | outputPurge | pulseEnd | setOutputApply | forceOutputApply
  | releaseOutputApply | readOutputApply | noticePost | noticePurge | hardwareReset | command | frameReceived | fetch
  | abort | status | unknownTransferCode => cases hissuer
  | _ =>
    -- Every other payload is a list of the operand bytes themselves.
    obtain rfl : _ = p := Option.some.inj hissuer
    exact ⟨_, _, rfl, by simp, rfl⟩

/-- Settles O3: the payload is at most 28 bytes, so the frame has a sound length, and its last byte is its CRC. -/
theorem frameRoundTrip : Obligations.FrameRoundTrip := by
  intro c p hwf hissuer
  obtain ⟨code, payload, hsent, hmax, hread⟩ := readCommand_codeAndPayload hwf hissuer
  have hlen : payload.length = (BitVec.ofNat 8 payload.length).toNat :=
    (Nat.mod_eq_of_lt (a := payload.length) (by omega)).symm
  refine ⟨frameBytes code payload, by simp [Instr.frame, hsent], ?_, ?_, ?_, crc_append_self _⟩
  · refine (readFrame_of_length hlen (hlen ▸ hmax) p code _).trans ?_
    rw [if_pos rfl, hread]
    rfl
  · simp [frameBytes]
  · simp [frameBytes]
    omega

/-! ### The port of the command read (R187) -/

/-- Each command code reads its payload as the port's own command, or not at all. -/
theorem readCommand_issuer {p : Port} {code : Byte} {payload : List Byte} {c : Instr}
    (h : readCommand p code payload = .sound c) : c.issuer = some p := by
  unfold readCommand at h
  split at h
  case h_2 =>
    -- ADD_STEP has the one payload whose length is counted.
    split at h
    · split at h <;> cases h
      rfl
    · cases h
  case h_43 =>
    -- No row has the code.
    cases h
  all_goals
    split at h <;> cases h
    rfl

theorem readFrame_issuer {p : Port} {bytes : List Byte} {c : Instr} (h : readFrame p bytes = .sound c) :
    c.issuer = some p := by
  unfold readFrame at h
  split at h
  · split at h
    · cases h
    · split at h
      · cases h
      · dsimp only at h
        split at h
        · cases h
        · split at h <;> cases h
          next hsound => exact readCommand_issuer hsound
  · cases h

end Sys2Proof

/-! PROOFS. The transactions of the ports: the first byte (O47), COMMAND and ABORT (O48), a received frame (O49), and a
fetch and the end of a transaction (O50). -/

namespace Sys2Proof.Machine

open Sys2Proof

/-! ### A port replaced, and who hears a transaction -/

theorem State.setPort_setPort (s : State) (p : Port) (x y : PortState) :
    (s.setPort p x).setPort p y = s.setPort p y := by
  simp [State.setPort]

theorem Hears.congr {s t : State} {p : Port} {o : Opening} (h : Hears s p o) (ht : t.portBAddress = s.portBAddress) :
    Hears t p o := by
  cases o with
  | select code => exact h
  | start address code => exact ⟨h.1, ht ▸ h.2⟩

theorem OnlyPort.portBAddress {p : Port} {s t : State} (h : OnlyPort p s t) : t.portBAddress = s.portBAddress := by
  obtain ⟨y, rfl⟩ := h
  rfl

/-- A start with another address than port B's is heard by no port. -/
theorem onBus_not_heard {s : State} {a code : Byte} (h : a.toNat / 2 ≠ s.portBAddress.toNat) (fits : FirstByte → Bool)
    (k : Port → State) : onBus (.start a code) fits s k = .next s := by
  simp [onBus, Opening.heardBy, busAddress_eq_iff, h]

section Heard

variable {s : State} {p : Port} {o : Opening} (h : Hears s p o)

include h

theorem Hears.bus_eq : o.bus = p := by
  cases o with
  | select code => exact (show p = .A from h).symm
  | start address code => exact h.1.symm

/-- A read has no code, and only port B is read. -/
theorem Hears.port_of_read (hread : sentCode o = none) : p = .B := by
  cases o with
  | select code => cases hread
  | start address code => exact h.1

end Heard

/-! ### What a first byte says (R178) -/

theorem Opening.first_of_code {o : Opening} {code : Byte} (h : sentCode o = some code) :
    o.first = firstByteOf code := by
  rw [Opening.first_eq, h]
  rfl

theorem Opening.first_eq_read_iff {o : Opening} : o.first = .read ↔ sentCode o = none := by
  cases hcode : sentCode o with
  | none => simp [Opening.first_eq, hcode]
  | some code =>
    rw [Opening.first_of_code hcode, firstByteOf]
    split <;> simp

/-- The transfer codes as comparisons. -/
theorem firstByteOf_eq (code : Byte) : firstByteOf code =
    if code = 0xA0 then .transfer .command else if code = 0xA1 then .transfer .fetch
    else if code = 0xA2 then .transfer .abort else if code = 0xA3 then .transfer .status else .unknown := by
  rw [firstByteOf, transferOf_eq]
  split_ifs <;> rfl

/-! ### What the parts of a transaction do (R178 to R189) -/

theorem NoticeState.any_iff (x : NoticeState) : x.any = true ↔ ∃ i : Idx, x.pending[i] ≠ none := by
  rw [NoticeState.any, any_toList_iff]
  simp only [Option.isSome_iff_ne_none]

/-- The status byte as the sum of its marks (R181, R199). -/
theorem State.statusByte_eq (s : State) (p : Port) [Decidable (∃ i : Idx, (s.notice p).pending[i] ≠ none)] :
    s.statusByte p = BitVec.ofNat 8 (128 + (if (s.port p).phase = .executing then 64 else 0) +
      (if (s.port p).phase = .holding then 32 else 0) + (if (s.port p).lostMark then 16 else 0) +
      (if (s.port p).frameMark then 8 else 0) + (if (s.port p).refusedMark then 4 else 0) +
      (if ∃ i : Idx, (s.notice p).pending[i] ≠ none then 2 else 0) + (if (s.port p).resetMark then 1 else 0)) := by
  simp only [State.statusByte, flagByte, mapNumber, List.foldr, ← NoticeState.any_iff, decide_eq_true_eq, if_true]
  congr 1
  simp only [mul_add, mul_ite, Nat.reduceMul]
  omega

theorem PortState.judge_eq_returned (x : PortState) : x.judge = x.returned := by
  unfold PortState.judge PortState.returned
  cases x.phase <;> cases x.held <;> rfl

section Parts

variable {s : State} {p : Port} {o : Opening}

/-- The opening of a transaction on a free bus. -/
theorem State.openBus_of_free (h : Hears s p o) (hfree : (s.port p).bus = .free) :
    s.openBus p o = s.setPort p { s.port p with
      bus := .opened, out := []
      capture := if p = .A ∨ sentCode o = none then some (s.statusByte p) else (s.port p).capture
      fetch := if sentCode o = none then some (s.port p).returned else (s.port p).fetch } := by
  cases o with
  | select code =>
    obtain rfl : p = .A := h
    simp [State.openBus, hfree, sentCode]
  | start address code =>
    obtain ⟨rfl, -⟩ := h
    by_cases hread : sentCode (.start address code) = none <;>
      simp [State.openBus, hfree, Opening.first_eq_read_iff, hread, PortState.judge_eq_returned]

theorem State.codeByte_of_opened (hopened : (s.port p).bus = .opened) (hsends : p = .A ∨ (s.port p).capture = none)
    (act : State → State) : s.codeByte p act = act (s.setPort p { s.port p with bus := .running }) := by
  simp [State.codeByte, hopened, hsends]

/-- The host sends no code in a read of port B, whose status byte is captured. -/
theorem State.codeByte_of_read (hcapture : (s.port .B).capture ≠ none) (act : State → State) :
    s.codeByte .B act = s := by
  simp [State.codeByte, hcapture]

theorem State.shiftStatus_of_captured {k : Byte} (hcapture : (s.port p).capture = some k)
    (hleaves : p = .B ∨ (s.port p).bus = .running) : s.shiftStatus p = s.setPort p ((s.port p).shiftOut k) := by
  simp [State.shiftStatus, hcapture, hleaves]

section Clocked

variable (hbus : (s.port p).bus = .running) (hcapture : (s.port p).capture = none)
  (hphase : (s.port p).phase ≠ .receiving)

include hbus hcapture hphase

theorem State.clockBytes_of_fetch {f : FetchProgress} (hfetch : (s.port p).fetch = some f) (n : Nat) :
    s.clockBytes p n = s.setPort p { s.port p with
      out := (s.port p).out ++ f.rest.take n ++ List.replicate (n - f.rest.length) 0xFF
      fetch := some { f with rest := f.rest.drop n } } := by
  simp [State.clockBytes, PortState.pastFirst, hbus, hcapture, hphase, hfetch]

theorem State.clockBytes_of_no_fetch (hfetch : (s.port p).fetch = none) (n : Nat) :
    s.clockBytes p n = s.setPort p { s.port p with out := (s.port p).out ++ filler p n } := by
  simp [State.clockBytes, PortState.pastFirst, hbus, hcapture, hphase, hfetch]

end Clocked

theorem filler_eq (p : Port) (n : Nat) : filler p n = if p = .A then List.replicate n 0xFF else [] := by
  cases p <;> rfl

section Ended

variable (hbus : (s.port p).bus ≠ .free)

include hbus

theorem State.stopBus_of_receiving (hphase : (s.port p).phase = .receiving) :
    s.stopBus p = s.setPort p { (s.port p).idleBus with phase := .ready, frameMark := true } := by
  simp [State.stopBus, hbus, hphase]

theorem State.stopBus_of_fetched {f : FetchProgress} (hphase : (s.port p).phase ≠ .receiving)
    (hfetch : (s.port p).fetch = some f) (hlive : f.live = true) (hrest : f.rest = []) :
    s.stopBus p = s.setPort p { (s.port p).idleBus with phase := .ready, held := none } := by
  simp [State.stopBus, hbus, hphase, PortState.fetched, hfetch, hlive, hrest]

theorem State.stopBus_of_not_fetched (hphase : (s.port p).phase ≠ .receiving)
    (hfetch : ∀ f, (s.port p).fetch = some f → f.live = true → f.rest ≠ []) :
    s.stopBus p = s.setPort p (s.port p).idleBus := by
  have hfetched : (s.port p).fetched = false := by
    cases hf : (s.port p).fetch with
    | none => simp [PortState.fetched, hf]
    | some f => simpa [PortState.fetched, hf] using hfetch f hf
  simp [State.stopBus, hbus, hphase, hfetched]

end Ended

end Parts

/-! ### What a first byte does, and the rows of the table (R178, R180, R186) -/

/-- What a complete first byte makes its port do. -/
def State.firstByte (s : State) (p : Port) : FirstByte → State
  | .transfer .command => s.beginFrame p
  | .transfer .fetch => s.beginFetch p
  | .transfer .abort => s.beginAbort p
  | .transfer .status | .read => s
  | .unknown => s.setPort p { s.port p with frameMark := true }

/-- The first byte changes its port and, where an ABORT stops a sweep, the engine. -/
theorem State.firstByte_portBAddress (s : State) (p : Port) (b : FirstByte) :
    (s.firstByte p b).portBAddress = s.portBAddress := by
  match b with
  | .transfer .command => exact (State.beginFrame_only p s).portBAddress
  | .transfer .fetch => exact (State.beginFetch_only p s).portBAddress
  | .transfer .abort =>
    simp only [State.firstByte, State.beginAbort]
    split
    · rfl
    · rfl
    · rfl
    · split
      · rfl
      · split <;> rfl
  | .transfer .status | .read | .unknown => rfl

section Rows

variable {s : State} {p : Port} {o : Opening} (h : Hears s p o)

include h

theorem exec_command (hfirst : o.first = .transfer .command) (part : HeadPart) :
    exec (.command { opening := o, part := part }) s =
      .next (s.headByte p o (fun s => s.firstByte p o.first) part) := by
  simp only [exec, execCommand]
  refine (onBus_hears h _ (by simp [hfirst])).trans ?_
  rw [hfirst]
  rfl

theorem exec_fetch (hfirst : o.first = .transfer .fetch ∨ o.first = .read) (part : TransactionPart) :
    exec (.fetch p o part) s = .next (s.transact p o (fun s => s.firstByte p o.first) part) := by
  simp only [exec, execFetch]
  refine (onBus_hears h _ (by simp [hfirst, h.bus_eq])).trans ?_
  rcases hfirst with hfetch | hread
  · rw [hfetch]
    rfl
  · obtain rfl := h.port_of_read (Opening.first_eq_read_iff.1 hread)
    rw [hread]
    rfl

theorem exec_abort (hfirst : o.first = .transfer .abort) (part : TransactionPart) :
    exec (.abort { opening := o, part := part }) s =
      .next (s.transact p o (fun s => s.firstByte p o.first) part) := by
  simp only [exec, execAbort]
  refine (onBus_hears h _ (by simp [hfirst])).trans ?_
  rw [hfirst]
  rfl

theorem exec_status {part : TransactionPart}
    (hfirst : o.first = .transfer .status ∨ o.first = .read ∧ part.further = 0) :
    exec (.status o part) s = .next (s.transact p o (fun s => s.firstByte p o.first) part) := by
  simp only [exec, execStatus]
  refine (onBus_hears h _ (by simpa using hfirst)).trans ?_
  rcases hfirst with hstatus | ⟨hread, -⟩
  · rw [hstatus]
    rfl
  · rw [hread]
    rfl

theorem exec_unknownTransferCode (hfirst : o.first = .unknown) (part : TransactionPart) :
    exec (.unknownTransferCode o part) s = .next (s.transact p o (fun s => s.firstByte p o.first) part) := by
  simp only [exec, execUnknownTransferCode]
  refine (onBus_hears h _ (by simp [hfirst])).trans ?_
  rw [hfirst]
  rfl

/-- The row a first byte names is the part of its transaction. -/
theorem exec_headRow (part : HeadPart) :
    exec (headRow o part) s = .next (s.headByte p o (fun s => s.firstByte p o.first) part) := by
  unfold headRow
  split
  · next hread => exact exec_status h (.inr ⟨Opening.first_eq_read_iff.2 hread, rfl⟩)
  · next code hcode =>
    have hfirst := (Opening.first_of_code hcode).trans (firstByteOf_eq code)
    split_ifs at hfirst ⊢
    · exact exec_command h hfirst part
    · rw [h.bus_eq]
      exact exec_fetch h (.inl hfirst) _
    · exact exec_abort h hfirst _
    · exact exec_status h (.inl hfirst)
    · exact exec_unknownTransferCode h hfirst _

/-- The code byte, by the row its first byte names. -/
theorem exec_headRow_code (hopened : (s.port p).bus = .opened) (hsends : p = .A ∨ (s.port p).capture = none) :
    exec (headRow o .code) s = .next ((s.setPort p { s.port p with bus := .running }).firstByte p o.first) := by
  rw [exec_headRow h .code, State.headByte, State.codeByte_of_opened hopened hsends]

/-- The row of a transaction that carries no frame is the part of it. -/
theorem exec_transactionRow (hframe : sentCode o ≠ some 0xA0) (part : TransactionPart) :
    exec (transactionRow o part) s = .next (s.transact p o (fun s => s.firstByte p o.first) part) := by
  unfold transactionRow
  split
  · next hread =>
    obtain rfl := h.port_of_read hread
    exact exec_fetch h (.inr (Opening.first_eq_read_iff.2 hread)) part
  · next code hcode =>
    have hfirst := (Opening.first_of_code hcode).trans (firstByteOf_eq code)
    rw [if_neg fun hc : code = 0xA0 => hframe (hc ▸ hcode)] at hfirst
    split_ifs at hfirst ⊢
    · rw [h.bus_eq]
      exact exec_fetch h (.inl hfirst) part
    · exact exec_abort h hfirst part
    · exact exec_status h (.inl hfirst)
    · exact exec_unknownTransferCode h hfirst part

end Rows

/-! ### The first byte, and what it captures and clears (O47) -/

section Head

variable {p : Port} {act : State → State} (hact : ∀ s, (act s).portBAddress = s.portBAddress)

include hact

theorem State.codeByte_portBAddress (s : State) : (s.codeByte p act).portBAddress = s.portBAddress := by
  simp only [State.codeByte]
  split
  · exact hact _
  · rfl

theorem State.headByte_portBAddress (s : State) (o : Opening) (part : HeadPart) :
    (s.headByte p o act part).portBAddress = s.portBAddress := by
  cases part with
  | whole =>
    simp only [State.headByte]
    split
    · rw [(State.shiftStatus_only _ p).portBAddress, State.codeByte_portBAddress hact,
        (State.openBus_only s p o).portBAddress]
    · rfl
  | opened => exact (State.openBus_only s p o).portBAddress
  | code => exact State.codeByte_portBAddress hact s
  | shifted => exact (State.shiftStatus_only s p).portBAddress

end Head

/-- A first byte taken whole is its three moments in turn (log 7). -/
theorem exec_headRow_whole {s : State} {p : Port} {o : Opening} (h : Hears s p o) (hfree : (s.port p).bus = .free) :
    ∃ t u v, exec (headRow o .opened) s = .next t ∧ exec (headRow o .code) t = .next u ∧
      exec (headRow o .shifted) u = .next v ∧ exec (headRow o .whole) s = .next v := by
  have hact (s : State) : (s.firstByte p o.first).portBAddress = s.portBAddress := State.firstByte_portBAddress s p _
  have ht : Hears (s.openBus p o) p o := h.congr (State.openBus_only s p o).portBAddress
  have hu : Hears ((s.openBus p o).codeByte p fun s => s.firstByte p o.first) p o :=
    ht.congr (State.codeByte_portBAddress hact _)
  refine ⟨_, _, _, exec_headRow h .opened, exec_headRow ht .code, exec_headRow hu .shifted, ?_⟩
  rw [exec_headRow h .whole, State.headByte, if_pos hfree]
  rfl

/-- Settles O47: a start that is not port B's is not heard, and each moment of a first byte changes its port alone. -/
theorem statusShiftsMarks : Obligations.StatusShiftsMarks := by
  refine ⟨fun a code part tpart s hother c hc => ?_, fun p o s h => ?_⟩
  · simp only [List.mem_cons, List.not_mem_nil, or_false] at hc
    rcases hc with rfl | rfl | rfl | rfl | rfl <;>
      simp only [exec, execCommand, execFetch, execAbort, execStatus, execUnknownTransferCode, onBus_not_heard hother]
  · intro x byte leaves
    refine ⟨fun hfree => ?_, fun k hcapture hleaves => ?_, fun code hcode hopened hsends => ?_, exec_headRow_whole h⟩
    · refine (exec_headRow h .opened).trans (congrArg _ ?_)
      refine (State.openBus_of_free h hfree).trans ?_
      rw [State.statusByte_eq]
      rfl
    · refine (exec_headRow h .shifted).trans (congrArg _ ?_)
      exact State.shiftStatus_of_captured hcapture hleaves
    · have hrow := exec_headRow_code h hopened hsends
      rw [Opening.first_of_code hcode] at hrow
      refine ⟨fun hunknown => hrow.trans ?_, fun hstatus => hrow.trans ?_⟩
      · have hfirst : firstByteOf code = .unknown := by
          simp only [List.mem_cons, List.not_mem_nil, or_false, not_or] at hunknown
          simp only [firstByteOf_eq, hunknown, if_false]
        rw [hfirst, State.firstByte, State.port_setPort_same, State.setPort_setPort]
        rfl
      · subst hstatus
        rfl

/-! ### COMMAND and ABORT by the state of the port (O48) -/

section ByState

variable (s : State) (p : Port) {x : PortState}

theorem State.beginFrame_of_ready (hphase : x.phase = .ready) :
    (s.setPort p x).beginFrame p = s.setPort p { x with phase := .receiving } := by
  simp only [State.beginFrame, State.port_setPort_same, hphase, State.setPort_setPort]

theorem State.beginFrame_of_holding (hphase : x.phase = .holding) :
    (s.setPort p x).beginFrame p = s.setPort p { x with phase := .receiving, held := none, lostMark := true } := by
  simp only [State.beginFrame, State.port_setPort_same, hphase, State.setPort_setPort]

theorem State.beginFrame_of_executing (hphase : x.phase = .executing) :
    (s.setPort p x).beginFrame p = s.setPort p { x with refusedMark := true } := by
  simp only [State.beginFrame, State.port_setPort_same, hphase, State.setPort_setPort]

theorem State.beginAbort_of_ready (hphase : x.phase = .ready) : (s.setPort p x).beginAbort p = s.setPort p x := by
  simp only [State.beginAbort, State.port_setPort_same, hphase]

theorem State.beginAbort_of_holding (hphase : x.phase = .holding) :
    (s.setPort p x).beginAbort p = s.setPort p { x with phase := .ready, held := none } := by
  simp only [State.beginAbort, State.port_setPort_same, hphase, State.setPort_setPort]

theorem State.beginAbort_again (hphase : x.phase = .executing) (habort : x.abort = true) :
    (s.setPort p x).beginAbort p = s.setPort p x := by
  simp only [State.beginAbort, State.port_setPort_same, hphase, habort, if_true]

/-- The abort request of a command in execution, with the stop request of a sweep (R117, R190). -/
theorem State.beginAbort_of_executing {c : Instr} (hphase : x.phase = .executing) (habort : x.abort = false)
    (hexec : x.inExec = some c) : (s.setPort p x).beginAbort p = { s with
      ports := s.ports.set p { x with abort := true }
      engine := if c.isSweep then { s.engine with sweeps := s.engine.sweeps.set p { s.sweep p with stop := true } }
        else s.engine } := by
  simp only [State.beginAbort, State.port_setPort_same, hphase, habort, hexec, State.setPort_setPort]
  cases hsweep : c.isSweep <;> simp [hsweep, State.requestStop] <;> rfl

end ByState

/-- Settles O48: the complete code acts on the port, past its first byte, as R186 and R190 say by its state. -/
theorem commandAndAbortByState : Obligations.CommandAndAbortByState := by
  intro p o s h hopened hsends x command abort
  refine ⟨fun hcode => ?_, fun hcode => ?_⟩
  · have hrow : exec command s = .next ((s.setPort p x).beginFrame p) := by
      have hcommand : headRow o .code = command := by simp [headRow, hcode, command]
      rw [← hcommand, exec_headRow_code h hopened hsends, Opening.first_of_code hcode]
      rfl
    exact ⟨fun hphase => hrow.trans (congrArg _ (State.beginFrame_of_ready s p hphase)),
      fun hphase => hrow.trans (congrArg _ (State.beginFrame_of_holding s p hphase)),
      fun hphase => hrow.trans (congrArg _ (State.beginFrame_of_executing s p hphase))⟩
  · have hrow : exec abort s = .next ((s.setPort p x).beginAbort p) := by
      have habort : headRow o .code = abort := by simp [headRow, hcode, abort]
      rw [← habort, exec_headRow_code h hopened hsends, Opening.first_of_code hcode]
      rfl
    exact ⟨fun hphase => hrow.trans (congrArg _ (State.beginAbort_of_ready s p hphase)),
      fun hphase => hrow.trans (congrArg _ (State.beginAbort_of_holding s p hphase)),
      fun hphase habort => hrow.trans (congrArg _ (State.beginAbort_again s p hphase habort)),
      fun c hphase habort hexec => hrow.trans (congrArg _ (State.beginAbort_of_executing s p hphase habort hexec))⟩

/-! ### A received frame (O49) -/

section FrameEnd

variable {s : State} {p : Port}

theorem State.takesFrame_iff : s.takesFrame p = true ↔
    (s.port p).bus = .running ∧ (s.port p).capture = none ∧ (s.port p).fetch = none := by
  simp [State.takesFrame, PortState.pastFirst, and_assoc]

/-- The port at the end of a transaction of `n` bytes that may be a frame's. -/
def PortState.frameEnded (x : PortState) (p : Port) (n : Nat) : PortState :=
  { x with bus := .free, out := x.out ++ if p = .A then List.replicate n 0xFF else [] }

theorem State.endFrame_eq_setPort (s : State) (p : Port) (n : Nat) :
    s.endFrame p n = s.setPort p ((s.port p).frameEnded p n) := by
  rw [State.endFrame, filler_eq]
  rfl

theorem State.answer_setPort (s : State) (p : Port) (x : PortState) (r : Response) :
    (s.setPort p x).answer p r = s.setPort p { x with phase := .holding, held := some r } := by
  rw [State.answer, State.port_setPort_same, State.setPort_setPort]

theorem State.takeCommand_identify (s : State) (p : Port) :
    s.takeCommand p (.identify p) = s.answer p (.ok identifyBytes) := if_pos rfl

theorem State.takeCommand_setPort {c : Instr} (hc : c ≠ .identify p) (s : State) (x : PortState) :
    (s.setPort p x).takeCommand p c = s.setPort p { x with
      phase := .executing, inExec := some c, request := if c.isDirect then none else some .first } := by
  rw [State.takeCommand, if_neg hc, State.place, State.port_setPort_same, State.setPort_setPort]

/-- What a port that receives makes of a frame (R183, R187). -/
def State.takeFrame (s : State) (p : Port) : FrameRead → State
  | .faulty => s.setPort p { s.port p with phase := .ready, frameMark := true }
  | .unknown => s.answer p (.refuse .unknownCommand)
  | .badLength => s.answer p (.refuse .badLength)
  | .sound c => s.takeCommand p c

theorem exec_frameReceived (htakes : s.takesFrame p = true) (bytes : List Byte) :
    exec (.frameReceived p bytes) s =
      .next (if (s.port p).phase = .receiving then (s.endFrame p bytes.length).takeFrame p (readFrame p bytes)
        else s.endFrame p bytes.length) := by
  simp only [exec, execFrameReceived, htakes, if_true]
  split
  · split <;> simp only [State.takeFrame, *]
  · rfl

/-- IDENTIFY is the taking of its own frame of three bytes (log 15). -/
theorem exec_identify (htakes : s.takesFrame p = true) (hphase : (s.port p).phase = .receiving) :
    exec (.identify p) s = .next ((s.endFrame p 3).takeFrame p (.sound (.identify p))) := by
  simp only [exec, execIdentify, htakes, hphase, Bool.true_and, decide_true, if_true, State.takeFrame]

end FrameEnd

/-- Settles O49: a port that receives judges the frame; the transaction of any other ends with its bytes ignored. -/
theorem frameTaken : Obligations.FrameTaken := by
  intro p bytes s hbus hcapture hfetch x ends goes identity
  have htakes : s.takesFrame p = true := State.takesFrame_iff.2 ⟨hbus, hcapture, hfetch⟩
  refine ⟨fun hphase => ?_, fun hphase => ?_⟩
  · refine (exec_frameReceived htakes bytes).trans (congrArg _ ?_)
    rw [if_neg hphase]
    exact State.endFrame_eq_setPort s p _
  have hjudged {r : FrameRead} {t : State} (hread : readFrame p bytes = r)
      (ht : (s.setPort p ((s.port p).frameEnded p bytes.length)).takeFrame p r = t) :
      exec (.frameReceived p bytes) s = .next t := by
    rw [exec_frameReceived htakes, if_pos hphase, hread, State.endFrame_eq_setPort, ht]
  refine ⟨fun hread => hjudged hread ?_, fun hread => hjudged hread ?_, fun hread => hjudged hread ?_,
    fun hread => hjudged hread ?_, fun c hread hc => hjudged hread ?_, ?_⟩
  · rw [State.takeFrame, State.port_setPort_same, State.setPort_setPort]
    rfl
  · exact State.answer_setPort ..
  · exact State.answer_setPort ..
  · exact (State.takeCommand_identify ..).trans (State.answer_setPort ..)
  · exact State.takeCommand_setPort hc ..
  · refine (exec_identify htakes hphase).trans (congrArg _ ?_)
    rw [State.endFrame_eq_setPort]
    exact (State.takeCommand_identify ..).trans (State.answer_setPort ..)

/-! ### A fetch, and the end of a transaction (O50) -/

section Whole

variable {s : State} {p : Port} {o : Opening}

/-- A transaction that carries no frame, taken whole, is its first byte, its further bytes and its end (log 16). -/
theorem exec_transactionRow_whole (h : Hears s p o) (hframe : sentCode o ≠ some 0xA0) (hfree : (s.port p).bus = .free)
    (n : Nat) : ∃ t u v, exec (transactionRow o (.head .whole)) s = .next t ∧
      exec (transactionRow o (.clock n)) t = .next u ∧ exec (transactionRow o .stop) u = .next v ∧
      exec (transactionRow o (.whole n)) s = .next v := by
  have hact (s : State) : (s.firstByte p o.first).portBAddress = s.portBAddress := State.firstByte_portBAddress s p _
  have ht : Hears (s.headByte p o (fun s => s.firstByte p o.first) .whole) p o :=
    h.congr (State.headByte_portBAddress hact s o .whole)
  have hu := ht.congr (State.clockBytes_only _ p n).portBAddress
  refine ⟨_, _, _, exec_transactionRow h hframe (.head .whole), exec_transactionRow ht hframe (.clock n),
    exec_transactionRow hu hframe .stop, ?_⟩
  rw [exec_transactionRow h hframe (.whole n), State.transact, if_pos hfree]
  rfl

/-- The FETCH code on port A (R189). -/
theorem State.beginFetch_setPort (s : State) (x : PortState) :
    (s.setPort .A x).beginFetch .A = s.setPort .A { x with fetch := some x.returned } := by
  simp only [State.beginFetch, State.port_setPort_same, State.setPort_setPort, PortState.judge_eq_returned]

/-- A port past the first byte of a fetch of a held response, of which all the frame is to come (R189). -/
structure PortState.Fetching (x : PortState) (r : Response) : Prop where
  bus : x.bus = .running
  capture : x.capture = none
  phase : x.phase = .holding
  held : x.held = some r
  fetch : x.fetch = some { rest := r.bytes, live := true }

/-- The first byte of a fetch of a held response, in which the status byte is out (R181, R189). -/
theorem State.headByte_of_held {r : Response} (h : Hears s p o) (hfree : (s.port p).bus = .free)
    (hphase : (s.port p).phase = .holding) (hheld : (s.port p).held = some r)
    (hfetch : sentCode o = none ∨ sentCode o = some 0xA1 ∧ p = .A) :
    ∃ y : PortState, s.headByte p o (fun s => s.firstByte p o.first) .whole = s.setPort p y ∧ y.Fetching r ∧
      y.out = [s.statusByte p] := by
  have hreturned : (s.port p).returned = { rest := r.bytes, live := true } := by
    simp [PortState.returned, hphase, hheld]
  rw [State.headByte, if_pos hfree, State.openBus_of_free h hfree]
  rcases hfetch with hread | ⟨hcode, rfl⟩
  · obtain rfl := h.port_of_read hread
    rw [State.codeByte_of_read (by simp [hread]),
      State.shiftStatus_of_captured (k := s.statusByte .B) (by simp [hread]) (.inl rfl), State.setPort_setPort]
    refine ⟨_, rfl, ?_, ?_⟩
    · constructor <;> simp [PortState.shiftOut, hphase, hheld, hread, hreturned]
    · simp [PortState.shiftOut]
  · have hfirst : o.first = .transfer .fetch := Opening.first_of_code hcode
    rw [State.codeByte_of_opened (by simp) (.inl rfl), State.setPort_setPort, hfirst, State.firstByte,
      State.beginFetch_setPort, State.shiftStatus_of_captured (k := s.statusByte .A) (by simp) (.inr (by simp)),
      State.setPort_setPort]
    refine ⟨_, rfl, ?_, ?_⟩
    · constructor <;> simp [PortState.shiftOut, hphase, hheld, PortState.returned]
    · simp [PortState.shiftOut]

/-- A fetch past its first byte, with `n` further bytes, to its end (R189). -/
theorem State.stopBus_of_fetching {y : PortState} {r : Response} (h : y.Fetching r) (s : State) (p : Port) (n : Nat) :
    let t := ((s.setPort p y).clockBytes p n).stopBus p
    (t.port p).out = y.out ++ r.bytes.take n ++ List.replicate (n - r.bytes.length) 0xFF ∧
      (r.bytes.length ≤ n → (t.port p).phase = .ready ∧ (t.port p).held = none) ∧
      (n < r.bytes.length → (t.port p).phase = .holding ∧ (t.port p).held = some r) := by
  obtain ⟨hbus, hcapture, hphase, hheld, hfetch⟩ := h
  have hclock := State.clockBytes_of_fetch (s := s.setPort p y) (p := p) (by simpa) (by simpa) (by simp [hphase])
    (by simpa using hfetch) n
  rw [hclock, State.port_setPort_same, State.setPort_setPort]
  rcases Nat.lt_or_ge n r.bytes.length with hlt | hle
  · rw [State.stopBus_of_not_fetched (by simp [hbus]) (by simp [hphase]) (by simp [hlt])]
    simp [hphase, hheld, hlt]
  · rw [State.stopBus_of_fetched (by simp [hbus]) (by simp [hphase]) 
      (f := { rest := r.bytes.drop n, live := true }) (by simp) rfl (by simp [hle])]
    simp [hle]

end Whole

/-- Settles O50: the code, the further bytes and the end of a transaction in turn, and a whole fetch made of them. -/
theorem fetchFreesHeld : Obligations.FetchFreesHeld := by
  intro p o n s h hframe x leaves idle
  refine ⟨fun hcode hopened => ⟨?_, ?_⟩, fun hbus hcapture hphase => ⟨fun f hf => ?_, fun hf => ?_⟩,
    fun hbus => ⟨fun hphase => ?_, fun f hphase hf hlive hrest => ?_, fun hphase hf => ?_⟩,
    fun hfree => ⟨exec_transactionRow_whole h hframe hfree n, fun hread => ?_, fun r hphase hheld hfetch => ?_⟩⟩
  · rintro rfl
    refine (exec_transactionRow h hframe (.head .code)).trans (congrArg _ ?_)
    rw [State.transact, State.headByte, State.codeByte_of_opened hopened (.inl rfl), Opening.first_of_code hcode]
    exact State.beginFetch_setPort ..
  · rintro rfl hcapture
    refine (exec_transactionRow h hframe (.head .code)).trans (congrArg _ ?_)
    rw [State.transact, State.headByte, State.codeByte_of_opened hopened (.inr hcapture), Opening.first_of_code hcode]
    rfl
  · refine (exec_transactionRow h hframe (.clock n)).trans (congrArg _ ?_)
    exact State.clockBytes_of_fetch hbus hcapture hphase hf n
  · refine (exec_transactionRow h hframe (.clock n)).trans (congrArg _ ?_)
    rw [← filler_eq]
    exact State.clockBytes_of_no_fetch hbus hcapture hphase hf n
  · refine (exec_transactionRow h hframe .stop).trans (congrArg _ ?_)
    exact State.stopBus_of_receiving hbus hphase
  · refine (exec_transactionRow h hframe .stop).trans (congrArg _ ?_)
    exact State.stopBus_of_fetched hbus hphase hf hlive hrest
  · refine (exec_transactionRow h hframe .stop).trans (congrArg _ ?_)
    exact State.stopBus_of_not_fetched hbus hphase hf
  · have hfirst : o.first = .read := Opening.first_eq_read_iff.2 hread
    obtain rfl := h.port_of_read hread
    exact (exec_status h (.inr ⟨hfirst, rfl⟩)).trans (exec_fetch h (.inr hfirst) _).symm
  · have hfirst : o.first = .transfer .fetch ∨ o.first = .read :=
      hfetch.elim (fun hread => .inr (Opening.first_eq_read_iff.2 hread))
        fun ⟨hcode, _⟩ => .inl (Opening.first_of_code hcode)
    obtain ⟨y, hy, hfetching, hout⟩ := State.headByte_of_held h hfree hphase hheld hfetch
    refine ⟨_, exec_fetch h hfirst (.whole n), ?_⟩
    rw [State.transact, if_pos hfree, hy]
    have hend := State.stopBus_of_fetching hfetching s p n
    rwa [hout] at hend

end Sys2Proof.Machine

/-! PROOFS. Every step keeps each port's items fitting its state and the transaction on its bus (O58): what each change
of a port keeps, the parts of a transaction, then the commands block by block. -/

namespace Sys2Proof.Machine

open Sys2Proof

/-! ### The changes of a port -/

namespace PortWf

variable {p : Port} {x : PortState}

theorem reset (p : Port) : PortWf p PortState.reset := by
  constructor <;> simp [PortState.reset]

/-- A port goes on with no command in execution. -/
theorem withoutCommand (h : PortWf p x) {next : PortPhase} {held : Option Response} (hexec : next ≠ .executing)
    (hheld : held.isSome = true ↔ next = .holding)
    (hlive : ∀ f, x.fetch = some f → f.live = true → next = .holding)
    (hreceives : next = .receiving → x.bus = .running ∧ x.fetch = none) :
    PortWf p { x with phase := next, inExec := none, request := none, held := held, abort := false } :=
  { h with
    executes := by simp [hexec]
    own := fun _ hc => nomatch hc
    holds := hheld
    aborts := fun ha => nomatch ha
    waits := fun hr => nomatch hr
    fetches := hlive
    receives := hreceives }

/-- A response is placed, or discarded for an abort request, which is there in EXECUTING alone, where no fetch is
live. -/
theorem complete (h : PortWf p x) (r : Response) : PortWf p (x.complete r) := by
  unfold PortState.complete
  split
  · next hdiscard =>
    have hphase : x.phase = .executing := h.aborts (Bool.and_eq_true_iff.1 hdiscard).1
    exact h.withoutCommand (by simp) (by simp) (fun f hf hl => nomatch hphase.symm.trans (h.fetches f hf hl)) nofun
  · exact h.withoutCommand (by simp) (by simp) (fun _ _ _ => rfl) nofun

/-- The other port at DEVICE_RESET (R194). -/
theorem abandon (h : PortWf p x) : PortWf p x.abandon where
  executes := by simp [PortState.abandon]
  own := fun _ hc => nomatch hc
  holds := by simp [PortState.abandon]
  aborts := fun ha => nomatch ha
  waits := fun hr => nomatch hr
  fetches := by simp [PortState.abandon]
  idle := fun hb => ⟨(h.idle hb).1, by simp [PortState.abandon, (h.idle hb).2]⟩
  opened := fun hb hc => by simp [PortState.abandon, h.opened hb hc]
  receives := fun hp => nomatch hp

/-- A request waits in EXECUTING, or none waits. -/
theorem withRequest (h : PortWf p x) (r : Option Request) (hr : r.isSome = true → x.phase = .executing) :
    PortWf p { x with request := r } := { h with waits := hr }

theorem shiftOut (h : PortWf p x) (c : Byte) : PortWf p (x.shiftOut c) :=
  { h with
    idle := fun hb => nomatch hb
    opened := fun hb => nomatch hb
    receives := fun hp => ⟨rfl, (h.receives hp).2⟩ }

theorem inExec_eq_none (h : PortWf p x) (hphase : x.phase ≠ .executing) : x.inExec = none := by
  cases hexec : x.inExec with
  | none => rfl
  | some c => exact absurd (h.executes.1 (by simp [hexec])) hphase

theorem request_eq_none (h : PortWf p x) (hphase : x.phase ≠ .executing) : x.request = none := by
  cases hrequest : x.request with
  | none => rfl
  | some r => exact absurd (h.waits (by simp [hrequest])) hphase

theorem abort_eq_false (h : PortWf p x) (hphase : x.phase ≠ .executing) : x.abort = false := by
  cases habort : x.abort with
  | false => rfl
  | true => exact absurd (h.aborts habort) hphase

theorem held_eq_none (h : PortWf p x) (hphase : x.phase ≠ .holding) : x.held = none := by
  cases hheld : x.held with
  | none => rfl
  | some r => exact absurd (h.holds.1 (by simp [hheld])) hphase

theorem not_receiving (h : PortWf p x) (hbus : x.bus ≠ .running) : x.phase ≠ .receiving :=
  fun hphase => hbus (h.receives hphase).1

/-- A port with no command in execution goes to another state. -/
theorem toPhase (h : PortWf p x) (hphase : x.phase ≠ .executing) {next : PortPhase} {held : Option Response}
    (hexec : next ≠ .executing) (hheld : held.isSome = true ↔ next = .holding)
    (hlive : ∀ f, x.fetch = some f → f.live = true → next = .holding)
    (hreceives : next = .receiving → x.bus = .running ∧ x.fetch = none) :
    PortWf p { x with phase := next, held := held } := by
  simpa [h.inExec_eq_none hphase, h.request_eq_none hphase, h.abort_eq_false hphase] using
    h.withoutCommand hexec hheld hlive hreceives

theorem toReady (h : PortWf p x) (hphase : x.phase ≠ .executing) (hfetch : x.fetch = none) :
    PortWf p { x with phase := .ready, held := none } :=
  h.toPhase hphase (by simp) (by simp) (fun _ hf => nomatch hfetch.symm.trans hf) nofun

theorem toReceiving (h : PortWf p x) (hphase : x.phase ≠ .executing) (hbus : x.bus = .running)
    (hfetch : x.fetch = none) : PortWf p { x with phase := .receiving, held := none } :=
  h.toPhase hphase (by simp) (by simp) (fun _ hf => nomatch hfetch.symm.trans hf) fun _ => ⟨hbus, hfetch⟩

theorem toHolding (h : PortWf p x) (hphase : x.phase ≠ .executing) (r : Response) :
    PortWf p { x with phase := .holding, held := some r } :=
  h.toPhase hphase (by simp) (by simp) (fun _ _ _ => rfl) nofun

/-- A port that holds nothing places a command of its own in execution. -/
theorem toExecuting (h : PortWf p x) (hphase : x.phase ≠ .holding) {c : Instr} (hc : c.issuer = some p)
    (r : Option Request) : PortWf p { x with phase := .executing, inExec := some c, request := r } :=
  { h with
    executes := by simp
    own := fun _ hd => Option.some.inj hd ▸ hc
    holds := by simp [h.held_eq_none hphase]
    aborts := fun _ => rfl
    waits := fun _ => rfl
    fetches := fun f hf hl => absurd (h.fetches f hf hl) hphase
    receives := fun hp => nomatch hp }

/-- A transaction opens on a free bus, and a read of port B judges its fetch with the status byte captured. -/
theorem opens (h : PortWf p x) (hfree : x.bus = .free) {capture : Option Byte} {fetch : Option FetchProgress}
    (hread : fetch.isSome = true → p ≠ .A ∧ capture.isSome = true)
    (hlive : ∀ f, fetch = some f → f.live = true → x.phase = .holding) :
    PortWf p { x with bus := .opened, out := [], capture := capture, fetch := fetch } :=
  { h with
    fetches := hlive
    idle := fun hb => nomatch hb
    opened := fun _ hcode => by
      cases fetch with
      | none => rfl
      | some f =>
        obtain ⟨hp, hcapture⟩ := hread rfl
        rcases hcode with rfl | hnone
        · exact absurd rfl hp
        · simp_all
    receives := fun hp => absurd hp (h.not_receiving (by simp [hfree])) }

/-- The code byte of a transaction is complete. -/
theorem passesCode (h : PortWf p x) (hopened : x.bus = .opened) : PortWf p { x with bus := .running } :=
  { h with
    idle := fun hb => nomatch hb
    opened := fun hb => nomatch hb
    receives := fun hp => absurd hp (h.not_receiving (by simp [hopened])) }

/-- A fetch is judged, or goes on, past the first byte of a transaction. -/
theorem withFetch (h : PortWf p x) (hbus : x.bus = .running) (hphase : x.phase ≠ .receiving) (out : List Byte)
    {fetch : Option FetchProgress} (hlive : ∀ f, fetch = some f → f.live = true → x.phase = .holding) :
    PortWf p { x with out := out, fetch := fetch } :=
  { h with
    fetches := hlive
    idle := fun hb => nomatch hbus.symm.trans hb
    opened := fun hb => nomatch hbus.symm.trans hb
    receives := fun hp => absurd hp hphase }

theorem idleBus (h : PortWf p x) (hphase : x.phase ≠ .receiving) : PortWf p x.idleBus :=
  { h with
    fetches := fun _ hf => nomatch hf
    idle := fun _ => ⟨rfl, rfl⟩
    opened := fun hb => nomatch hb
    receives := fun hp => absurd hp hphase }

/-- A port that receives is READY once its transaction has ended and nothing came of it. -/
theorem endsReceiving (h : PortWf p x) (hphase : x.phase = .receiving) (frameMark : Bool) (out : List Byte) :
    PortWf p { x.idleBus with phase := .ready, frameMark := frameMark, out := out } :=
  have hready := (h.toReady (by simp [hphase]) (h.receives hphase).2).idleBus (by simp)
  { hready with holds := by simp [h.held_eq_none (by simp [hphase])] }

end PortWf

theorem PortState.judge_live {x : PortState} (h : x.judge.live = true) : x.phase = .holding := by
  unfold PortState.judge at h
  split at h
  · next hphase _ => exact hphase
  · cases h

/-! ### The state with a port changed -/

namespace PortsInv

variable {s t : State} {p : Port}

theorem congr (h : PortsInv s) (hports : t.ports = s.ports) : PortsInv t := by
  intro q
  rw [State.port, hports]
  exact h q

theorem setPort (h : PortsInv s) {x : PortState} (hx : PortWf p x) : PortsInv (s.setPort p x) := by
  intro q
  by_cases hq : q = p
  · subst hq
    simpa using hx
  · rw [State.port_setPort_ne s x hq]
    exact h q

theorem complete (h : PortsInv s) (r : Response) : PortsInv (s.complete p r) := h.setPort ((h p).complete r)

theorem reply (h : PortsInv s) (dest : Option Port) (r : Response) : PortsInv (s.reply dest r) := by
  cases dest with
  | none => exact h
  | some p => exact h.complete r

theorem finish {x : State × Option Response} (h : PortsInv x.1) : PortsInv (finish p x) := by
  obtain ⟨t, r⟩ := x
  cases r with
  | none => exact h
  | some r => exact h.complete r

theorem pass (h : PortsInv s) : PortsInv (s.pass p) :=
  (h.setPort ((h p).withRequest none nofun)).congr rfl

end PortsInv

/-- The outcome is a next state whose ports are well formed. -/
def PortsMet (o : Host.Outcome State Fault Refusal) : Prop := ∃ t, o = .next t ∧ PortsInv t

/-- A happening of a command in execution at the port leaves the ports well formed. -/
def ServesPort {α : Type} (p : Port) (body : State → State × α) : Prop :=
  ∀ s, PortsInv s → (s.port p).phase = .executing → PortsInv (body s).1

/-- A happening leaves the ports. -/
def KeepsPorts {α : Type} (body : State → State × α) : Prop := ∀ s, (body s).1.ports = s.ports

theorem KeepsPorts.serves {α : Type} {body : State → State × α} (h : KeepsPorts body) (p : Port) :
    ServesPort p body := fun s hs _ => hs.congr (h s)

namespace PortsMet

variable {s t : State}

theorem next (h : PortsInv t) : PortsMet (.next t) := ⟨t, rfl, h⟩

/-- A command of the engine. -/
theorem atEngine (h : PortsInv s) {p : Port} {c : Instr} {body : State → State × Option Response}
    (hbody : ServesPort p body) : PortsMet (atEngine p c s body) := by
  rcases atEngine_cases s p c body with ⟨⟨hexec, -, -⟩, heq⟩ | ⟨-, heq⟩ <;> rw [heq]
  · refine next (.finish (hbody _ h.pass ?_))
    have hphase : (s.port p).phase = .executing := (h p).executes.1 (by simp [hexec])
    simpa [State.port] using hphase
  · exact next h

/-- A command of the engine that changes the engine alone. -/
theorem onEngine (h : PortsInv s) (p : Port) (c : Instr) (f : Engine → Engine × Response) :
    PortsMet (Machine.atEngine p c s (onEngine f)) :=
  atEngine h (KeepsPorts.serves (fun _ => rfl) p)

/-- A command of another block, whose happening leaves the ports. -/
theorem atBlock (h : PortsInv s) {p : Port} {c : Instr} {body : State → State × Response} (hbody : KeepsPorts body) :
    PortsMet (atBlock p c s body) := by
  unfold Machine.atBlock
  split
  · exact next ((h.congr (hbody s)).complete _)
  · exact next h

/-- A transaction whose part leaves the ports well formed. -/
theorem onBus (h : PortsInv s) (o : Opening) (fits : FirstByte → Bool) {k : Port → State}
    (hk : ∀ p, PortsInv (k p)) : PortsMet (onBus o fits s k) := by
  rcases onBus_cases o fits s k with heq | ⟨p, -, -, heq⟩ <;> rw [heq]
  · exact next h
  · exact next (hk p)

end PortsMet

/-! ### Sweeps and resets -/

section Sweeps

variable {s : State} {p : Port}

/-- A sweep that goes on places its next request, with its command still in execution (R109). -/
theorem sweepHappening_serves (p : Port) (w : Sweep) : ServesPort p (sweepHappening p w) := by
  intro s h hphase
  unfold sweepHappening
  split
  · exact h.congr rfl
  · dsimp only
    split
    · exact h.congr rfl
    · have hvisited := h.setPort ((h p).withRequest (some .visit) fun _ => hphase)
      exact hvisited.congr rfl

theorem stopSweep_serves (p : Port) : ServesPort p (stopSweep p) := fun _ h _ => h.congr rfl

theorem startGroup_serves (p : Port) (kind : SweepKind) (g : Byte) : ServesPort p (startGroup p kind g) := by
  intro s h hphase
  unfold startGroup
  split
  · exact stopSweep_serves p s h hphase
  · split
    · exact sweepHappening_serves p _ s h hphase
    · exact h

/-- A sweep's request that waits is that of a command in execution. -/
theorem executing_of_sweepWaits (h : PortsInv s) (hwaits : s.sweepWaits p = true) : (s.port p).phase = .executing := by
  have hsweep : (s.port p).inExec.any Instr.isSweep = true := by
    simp only [State.sweepWaits, Bool.and_eq_true] at hwaits
    exact hwaits.1.1
  obtain ⟨c, hc, -⟩ := (Option.any_eq_true _ _).1 hsweep
  exact (h p).executes.1 (by simp [hc])

/-- The engine takes a sweep's request that waits. -/
theorem PortsMet.sweepTaken (h : PortsInv s) (hwaits : s.sweepWaits p = true) {body : State → State × Option Response}
    (hbody : ServesPort p body) : PortsMet (.next (finish p (body (s.pass p)))) := by
  refine .next (.finish (hbody _ h.pass ?_))
  simpa [State.port] using executing_of_sweepWaits h hwaits

theorem execSweepVisit_portsMet (h : PortsInv s) (p : Port) : PortsMet (execSweepVisit p s) := by
  unfold execSweepVisit
  split
  · next hvisit =>
    have hwaits : s.sweepWaits p = true := (Bool.and_eq_true_iff.1 hvisit).1
    split
    · exact .sweepTaken h hwaits (stopSweep_serves p)
    · split
      · exact .sweepTaken h hwaits (sweepHappening_serves p _)
      · exact .next h
  · exact .next h

theorem execSweepStop_portsMet (h : PortsInv s) (p : Port) : PortsMet (execSweepStop p s) := by
  unfold execSweepStop
  split
  · next hstop => exact .sweepTaken h (Bool.and_eq_true_iff.1 hstop).1 (stopSweep_serves p)
  · exact .next h

end Sweeps

theorem deviceReset_serves (p : Port) : ServesPort p fun s => (s.deviceReset p, some (Response.ok [])) := by
  intro s h _
  have hother := h.setPort (h (otherPort p)).abandon
  have hmark : PortWf p { s.port p with resetMark := true } := { h p with }
  exact (hother.setPort hmark).congr rfl

theorem execHardwareReset_portsMet (addr : BitVec 2) (s : State) : PortsMet (execHardwareReset addr s) := by
  refine .next fun q => ?_
  cases q <;> exact .reset _

/-! ### Happenings that leave the ports -/

theorem setTimebaseAt_keepsPorts (p : Port) (divider : BitVec 16) : KeepsPorts (setTimebaseAt p divider) := by
  intro s
  unfold setTimebaseAt
  split
  · rfl
  · split <;> rfl

theorem setLineAt_keepsPorts (p : Port) (line enable polarity filter : Byte) :
    KeepsPorts (setLineAt p line enable polarity filter) := by
  intro s
  unfold setLineAt
  split
  · split
    · rfl
    · split <;> rfl
  · rfl

theorem forwardOutput_keepsPorts (r : Option OutReq) : KeepsPorts (forwardOutput r) := by
  intro s
  cases r <;> rfl

theorem onLine_ports (line : Byte) {k : Line → State × Response} {s : State} (h : ∀ l, (k l).1.ports = s.ports) :
    (onLine line k s).1.ports = s.ports := by
  unfold onLine
  split
  · exact h _
  · rfl

theorem maskAt_keepsPorts (line : Byte) : KeepsPorts (maskAt line) := fun s => onLine_ports line fun l => by
  dsimp only
  split <;> rfl

theorem unmaskAt_keepsPorts (line : Byte) : KeepsPorts (unmaskAt line) := fun s => onLine_ports line fun l => by
  dsimp only
  split <;> rfl

theorem setSamplingAt_keepsPorts (divider : Byte) : KeepsPorts (setSamplingAt divider) := by
  intro s
  unfold setSamplingAt
  split <;> rfl

theorem takeNoticeAt_keepsPorts (p : Port) : KeepsPorts (takeNoticeAt p) := by
  intro s
  unfold takeNoticeAt
  split <;> rfl

theorem ackNoticeAt_keepsPorts (p : Port) (index : Byte) : KeepsPorts (ackNoticeAt p index) := by
  intro s
  unfold ackNoticeAt
  split <;> rfl

theorem setNoticeEnableAt_keepsPorts (p : Port) (enable : Byte) : KeepsPorts (setNoticeEnableAt p enable) := by
  intro s
  unfold setNoticeEnableAt
  split <;> rfl

theorem State.refclks_ports (n : Nat) (s : State) : (s.refclks n).ports = s.ports := by
  rw [State.refclks_only]

theorem takeReport_ports (s : State) (l : Line) (r : LevelReport) : (takeReport s l r).ports = s.ports := by
  unfold takeReport
  dsimp only
  split <;> rfl

theorem takeEdge_ports (s : State) (l : Line) (e : Edge) : (takeEdge s l e).ports = s.ports := by
  unfold takeEdge
  split <;> rfl

theorem takeAction_portsMet {s : State} (h : PortsInv s) (kind : OutKind) : PortsMet (takeAction kind s) := by
  unfold takeAction
  split
  · split
    · exact .next (h.congr rfl)
    · exact .next h
  · exact .next h

/-! ### Transactions on the buses (R178 to R190) -/

section Transactions

variable {s : State} {p : Port}

theorem State.openBus_portsInv (h : PortsInv s) (p : Port) (o : Opening) : PortsInv (s.openBus p o) := by
  unfold State.openBus
  dsimp only
  split
  · next hfree =>
    have hfetch : (s.port p).fetch = none := ((h p).idle hfree).2
    have hnone : ∀ f, (s.port p).fetch = some f → f.live = true → (s.port p).phase = .holding :=
      fun f hf => nomatch hfetch.symm.trans hf
    refine h.setPort ?_
    cases p with
    | A => exact (h .A).opens hfree (by simp [hfetch]) hnone
    | B =>
      dsimp only
      split
      · refine (h .B).opens hfree (by simp) fun f hf hl => ?_
        cases hf
        exact PortState.judge_live hl
      · exact (h .B).opens hfree (by simp [hfetch]) hnone
  · exact h

/-- What a complete code byte does leaves the ports well formed; it is complete in a transaction past its first byte
with no fetch, on a port that does not receive. -/
def ActsAtCode (p : Port) (act : State → State) : Prop :=
  ∀ s, PortsInv s → (s.port p).bus = .running → (s.port p).fetch = none → (s.port p).phase ≠ .receiving →
    PortsInv (act s)

theorem ActsAtCode.id (p : Port) : ActsAtCode p id := fun _ h _ _ _ => h

theorem ActsAtCode.beginFrame (p : Port) : ActsAtCode p fun s => s.beginFrame p := by
  intro s h hbus hfetch hreceiving
  simp only [State.beginFrame]
  split
  · next hphase =>
    have hheld := (h p).held_eq_none (by simp [hphase])
    simpa [← hheld] using h.setPort ((h p).toReceiving (by simp [hphase]) hbus hfetch)
  · next hphase =>
    have hx := (h p).toReceiving (by simp [hphase]) hbus hfetch
    exact h.setPort { hx with }
  · exact h.setPort { h p with }
  · exact h

theorem ActsAtCode.beginFetch (p : Port) : ActsAtCode p fun s => s.beginFetch p := by
  intro s h hbus _ hreceiving
  cases p with
  | B => exact h
  | A =>
    refine h.setPort ((h .A).withFetch hbus hreceiving _ fun f hf hl => ?_)
    cases hf
    exact PortState.judge_live hl

theorem ActsAtCode.beginAbort (p : Port) : ActsAtCode p fun s => s.beginAbort p := by
  intro s h _ hfetch _
  simp only [State.beginAbort]
  split
  · exact h
  · exact h
  · next hphase => exact h.setPort ((h p).toReady (by simp [hphase]) hfetch)
  · next hphase =>
    have habort : PortWf p { s.port p with abort := true } := { h p with aborts := fun _ => hphase }
    split
    · exact h
    · split
      · exact (h.setPort habort).congr rfl
      · exact h.setPort habort

theorem ActsAtCode.frameMark (p : Port) : ActsAtCode p fun s => s.setPort p { s.port p with frameMark := true } :=
  fun _ h _ _ _ => h.setPort { h p with }

theorem State.codeByte_portsInv {act : State → State} (hact : ActsAtCode p act) (h : PortsInv s) :
    PortsInv (s.codeByte p act) := by
  simp only [State.codeByte]
  split
  · next hcode =>
    obtain ⟨hopened, hsends⟩ : (s.port p).bus = .opened ∧ (p = .A ∨ (s.port p).capture = none) := by simpa using hcode
    refine hact _ (h.setPort ((h p).passesCode hopened)) ?_ ?_ ?_ <;> rw [State.port_setPort_same]
    · exact (h p).opened hopened hsends
    · exact (h p).not_receiving (by simp [hopened])
  · exact h

theorem State.shiftStatus_portsInv (h : PortsInv s) (p : Port) : PortsInv (s.shiftStatus p) := by
  simp only [State.shiftStatus]
  split
  · split
    · exact h.setPort ((h p).shiftOut _)
    · exact h
  · exact h

theorem State.clockBytes_portsInv (h : PortsInv s) (p : Port) (n : Nat) : PortsInv (s.clockBytes p n) := by
  unfold State.clockBytes
  dsimp only
  split
  · next hpast =>
    obtain ⟨⟨hbus, -⟩, hreceiving⟩ :
        ((s.port p).bus = .running ∧ (s.port p).capture = none) ∧ (s.port p).phase ≠ .receiving := by
      simpa [PortState.pastFirst] using hpast
    refine h.setPort ?_
    split
    · next f hf =>
      refine (h p).withFetch hbus hreceiving _ fun g hg hl => ?_
      cases hg
      exact (h p).fetches f hf hl
    · exact (h p).withFetch hbus hreceiving _ (h p).fetches
  · exact h

theorem State.stopBus_portsInv (h : PortsInv s) (p : Port) : PortsInv (s.stopBus p) := by
  simp only [State.stopBus]
  split
  · exact h
  · split
    · next hphase => exact h.setPort ((h p).endsReceiving hphase true _)
    · next hreceiving =>
      split
      · next hfetched =>
        have hholding : (s.port p).phase = .holding := by
          obtain ⟨f, hf, hl⟩ := (Option.any_eq_true _ _).1 hfetched
          exact (h p).fetches f hf (Bool.and_eq_true_iff.1 hl).1
        exact h.setPort (((h p).idleBus hreceiving).toReady (by simp [hholding]) rfl)
      · exact h.setPort ((h p).idleBus hreceiving)

/-- The bus is free at the end of a transaction whose bytes may be a frame's. -/
theorem State.endFrame_eq_idleBus (htakes : s.takesFrame p = true) (n : Nat) : ∃ out,
    s.endFrame p n = s.setPort p { (s.port p).idleBus with out := out } := by
  obtain ⟨-, hcapture, hfetch⟩ := State.takesFrame_iff.1 htakes
  exact ⟨(s.port p).out ++ filler p n, by simp [State.endFrame, PortState.idleBus, hcapture, hfetch]⟩

/-- What a port that receives makes of a frame leaves it well formed. -/
theorem State.takeFrame_portsInv (h : PortsInv s) (hphase : (s.port p).phase = .receiving) (out : List Byte)
    {r : FrameRead} (hissuer : ∀ c, r = .sound c → c.issuer = some p) :
    PortsInv ((s.setPort p { (s.port p).idleBus with out := out }).takeFrame p r) := by
  have hready (frameMark : Bool) := (h p).endsReceiving hphase frameMark out
  have hanswer (r : Response) :
      PortsInv ((s.setPort p { (s.port p).idleBus with out := out }).answer p r) := by
    rw [State.answer_setPort]
    exact h.setPort ((hready (s.port p).frameMark).toHolding (by simp) r)
  cases r with
  | faulty =>
    rw [State.takeFrame, State.port_setPort_same, State.setPort_setPort]
    exact h.setPort (hready true)
  | unknown | badLength => exact hanswer _
  | sound c =>
    by_cases hc : c = .identify p
    · rw [State.takeFrame, hc, State.takeCommand_identify]
      exact hanswer _
    · rw [State.takeFrame, State.takeCommand_setPort hc]
      exact h.setPort ((hready (s.port p).frameMark).toExecuting (by simp) (hissuer c rfl) _)

theorem exec_frameReceived_portsMet (h : PortsInv s) (p : Port) (bytes : List Byte) :
    PortsMet (exec (.frameReceived p bytes) s) := by
  by_cases htakes : s.takesFrame p = true
  · rw [exec_frameReceived htakes]
    obtain ⟨out, hend⟩ := State.endFrame_eq_idleBus htakes bytes.length
    rw [hend]
    split
    · next hphase => exact .next (State.takeFrame_portsInv h hphase out fun _ hc => readFrame_issuer hc)
    · next hphase =>
      have hidle := (h p).idleBus hphase
      exact .next (h.setPort { hidle with })
  · simp only [exec, execFrameReceived, htakes]
    exact .next h

theorem exec_identify_portsMet (h : PortsInv s) (p : Port) : PortsMet (exec (.identify p) s) := by
  by_cases htakes : s.takesFrame p = true ∧ (s.port p).phase = .receiving
  · obtain ⟨out, hend⟩ := State.endFrame_eq_idleBus htakes.1 3
    rw [exec_identify htakes.1 htakes.2, hend]
    refine .next (State.takeFrame_portsInv h htakes.2 out fun c hc => ?_)
    cases hc
    rfl
  · simp only [exec, execIdentify, Bool.and_eq_true, decide_eq_true_eq, htakes, if_false]
    exact .next h

theorem State.headByte_portsInv {act : State → State} (hact : ActsAtCode p act) (h : PortsInv s) (o : Opening)
    (part : HeadPart) : PortsInv (s.headByte p o act part) := by
  cases part with
  | whole =>
    simp only [State.headByte]
    split
    · exact State.shiftStatus_portsInv (State.codeByte_portsInv hact (State.openBus_portsInv h p o)) p
    · exact h
  | opened => exact State.openBus_portsInv h p o
  | code => exact State.codeByte_portsInv hact h
  | shifted => exact State.shiftStatus_portsInv h p

theorem State.transact_portsInv {act : State → State} (hact : ActsAtCode p act) (h : PortsInv s) (o : Opening)
    (part : TransactionPart) : PortsInv (s.transact p o act part) := by
  cases part with
  | whole n =>
    simp only [State.transact]
    split
    · exact State.stopBus_portsInv (State.clockBytes_portsInv (State.headByte_portsInv hact h o .whole) p n) p
    · exact h
  | head part => exact State.headByte_portsInv hact h o part
  | clock n => exact State.clockBytes_portsInv h p n
  | stop => exact State.stopBus_portsInv h p

end Transactions

/-! ### Every command -/

theorem exec_portsMet {s : State} (h : PortsInv s) (c : Instr) : PortsMet (exec c s) := by
  cases c with
  -- Commands of the engine that change more than the engine, and its happenings.
  | armGroup p group | holdGroup p group | releaseGroup p group | cancelGroup p group =>
    exact .atEngine h (startGroup_serves p _ group)
  | clearOwned p =>
    simp only [exec, execClearOwned]
    refine .atEngine h fun s hs hphase => ?_
    split
    · exact stopSweep_serves p s hs hphase
    · exact sweepHappening_serves p _ s hs hphase
  | sweepVisit p => exact execSweepVisit_portsMet h p
  | sweepStop p => exact execSweepStop_portsMet h p
  | setTimebase p divider => exact .atEngine h ((setTimebaseAt_keepsPorts p divider).serves p)
  | setLine p line enable polarity filter =>
    exact .atEngine h ((setLineAt_keepsPorts p line enable polarity filter).serves p)
  | setOutput p | forceOutput p | releaseOutput p | readOutput p =>
    exact .atEngine h ((forwardOutput_keepsPorts _).serves p)
  | levelReport l =>
    simp only [exec, execLevelReport]
    split
    · refine .next (PortsInv.reply (h.congr ?_) _ _)
      exact takeReport_ports ..
    · exact .next h
  | edgeTaken l =>
    simp only [exec, execEdgeTaken]
    split
    · exact .next (h.congr (takeEdge_ports ..))
    · exact .next h
  | deadlineExpiry =>
    simp only [exec, execDeadlineExpiry]
    split
    · split
      · exact .next (h.congr rfl)
      · exact .next h
    · exact .next h
  -- The Timebase and the Line Unit.
  | timebaseDividerApply =>
    simp only [exec, execTimebaseDividerApply]
    split
    · refine .next (PortsInv.reply (h.congr ?_) _ _)
      rfl
    · exact .next h
  | timeHold p | timeRun p | readTime p | readLevels p | peekNotices p =>
    simp only [exec, execTimeHold, execTimeRun, execReadTime, execReadLevels, execPeekNotices]
    exact .atBlock h fun _ => rfl
  | tick =>
    simp only [exec, execTick]
    split
    · exact .next (h.congr (State.refclks_ports ..))
    · exact .next h
  | sample pins => exact .next (h.congr (State.refclks_ports ..))
  | maskLine p line => exact .atBlock h (maskAt_keepsPorts line)
  | unmaskLine p line => exact .atBlock h (unmaskAt_keepsPorts line)
  | readLine p line =>
    simp only [exec, execReadLine]
    exact .atBlock h fun s => onLine_ports line fun _ => rfl
  | setSampling p divider => exact .atBlock h (setSamplingAt_keepsPorts divider)
  -- The Output Unit and the Notice Unit.
  | outSet | outClear | outRelease => exact takeAction_portsMet h _
  | setLineApply | outputPurge | pulseEnd | noticePost | noticePurge =>
    simp only [exec, execSetLineApply, execOutputPurge, execPulseEnd, execNoticePost, execNoticePurge]
    split
    · exact .next (h.congr rfl)
    · exact .next h
  | setOutputApply | forceOutputApply | releaseOutputApply | readOutputApply =>
    simp only [exec, execSetOutputApply, execForceOutputApply, execReleaseOutputApply, execReadOutputApply]
    split
    · refine .next (PortsInv.complete (h.congr ?_) _)
      rfl
    · exact .next h
  | takeNotice p => exact .atBlock h (takeNoticeAt_keepsPorts p)
  | ackNotice p index => exact .atBlock h (ackNoticeAt_keepsPorts p index)
  | setNoticeEnable p enable => exact .atBlock h (setNoticeEnableAt_keepsPorts p enable)
  -- The ports and the resets.
  | identify p => exact exec_identify_portsMet h p
  | deviceReset p => exact .atEngine h (deviceReset_serves p)
  | hardwareReset addr => exact execHardwareReset_portsMet addr s
  | command t =>
    simp only [exec, execCommand]
    exact .onBus h _ _ fun p => State.headByte_portsInv (.beginFrame p) h _ _
  | frameReceived p bytes => exact exec_frameReceived_portsMet h p bytes
  | fetch p o part =>
    simp only [exec, execFetch]
    exact .onBus h _ _ fun q => State.transact_portsInv (.beginFetch q) h _ _
  | abort t =>
    simp only [exec, execAbort]
    exact .onBus h _ _ fun p => State.transact_portsInv (.beginAbort p) h _ _
  | status o part =>
    simp only [exec, execStatus]
    exact .onBus h _ _ fun p => State.transact_portsInv (.id p) h _ _
  | unknownTransferCode o part =>
    simp only [exec, execUnknownTransferCode]
    exact .onBus h _ _ fun p => State.transact_portsInv (.frameMark p) h _ _
  | _ =>
    -- What is left are the engine's commands that change the engine alone.
    exact .onEngine h _ _ _

/-- Settles O58: a step takes a command from the queue, or lets a REFCLK period pass, which no port sees (log 3). -/
theorem stepKeepsPorts : Obligations.StepKeepsPorts := by
  intro s t h hstep
  have hmet : PortsMet (step s) := by
    unfold step
    split
    · refine exec_portsMet (h.congr ?_) _
      rfl
    · exact .next (h.congr rfl)
  obtain ⟨u, hu, hports⟩ := hmet
  rwa [Host.Outcome.next.inj (hstep.symm.trans hu)]

end Sys2Proof.Machine

/-! PROOFS. What a cascade keeps of the table when it begins in a good one: the rules an invariant has to meet, once for
the whole table and once for the records alone. -/

namespace Sys2Proof.Machine

open Sys2Proof

/-! ### The rules a table invariant has to meet -/

/-- A conclusion the part can make: it has an outcome, with a cause that outcome may carry (R4). -/
def Concludes (o : WOutcome) (cause : Cause) : Prop := o ≠ .none ∧ OutcomePair o cause

/-- The record of a watch on step `k`, which is `d`, as its begin at `t` leaves it (R49, R50). -/
def Watch.onStep (w : Watch) (k : Nat) (t : Time) (d : StepDesc) : Watch :=
  { w with
    epoch := w.epoch + 1, stepStart := some t, current := k, phase := d.firstPhase, remaining := d.firstCount
    spanStart := none }

/-- The record of a watch that counts an edge of its EDGE step (R66, R72). -/
def Watch.counted (w : Watch) : Watch := { w.progressed with remaining := w.remaining - 1 }

/-- The rules by which every cascade keeps `P`. Besides `P` they speak of the moments inside an operation on a watch:
`Ends`, its step may be ended by a conclusion; `Completes`, its step may complete; `Begins`, it is off every list and
may begin a step. What a CYCLIC watch has to show when it is re-armed, `Armable`, is asked of its steps at its
conclusion. -/
structure CascadeRules (c : Ctx) (Armable : List StepDesc → Prop) (P : Table → Prop)
    (Ends Completes : Table → Idx → Prop) (Begins : Table → Idx → Nat → Prop) : Prop where
  live : ∀ {T i}, P T → (T.watch i).live = true → Ends T i
  runs : ∀ {T i}, P T → (T.watch i).runs = true → Completes T i
  completes : ∀ {T i}, Completes T i → Ends T i
  armable : ∀ {T i}, Ends T i → Armable (T.watch i).steps
  ended : ∀ {T i}, Ends T i → Ends (endStep T i) i
  concluded : ∀ {T i o cause} t, Ends T i → Concludes o cause → P (recordedTable T i o cause t)
  next : ∀ {T i}, Completes T i → (T.watch i).current + 1 < (T.watch i).steps.length →
    Begins ((endStep T i).modify i fun w => { w with state := .running }) i ((T.watch i).current + 1)
  stands : ∀ {T T' i k t d}, Begins T i k → (T.watch i).steps[k]? = some d → TargetFits T i d →
    StepBegun c T T' i k t d → P T'
  guarded : ∀ {T T' i k t d}, Begins T i k → (T.watch i).steps[k]? = some d → TargetFits T i d →
    StepBegun c T T' i k t d.bare → Ends T' i
  lost : ∀ {T i k} t, Begins T i k → Ends (T.modify i fun w => w.begun k t) i
  stepless : ∀ {T i k} t, Begins T i k → (T.watch i).steps[k]? = none → P (T.modify i fun w => w.begun k t)
  armed : ∀ {T i} t, P T → (T.watch i).state = .idle → linesEnabled c.view (T.watch i) = true →
    Begins (T.modify i fun w => w.armedWith t) i 0
  rearmed : ∀ {T i} t, P T → (T.watch i).state = .concluded → Armable (T.watch i).steps →
    Begins (T.modify i fun w => w.rearmed t) i 0
  released : ∀ {T i}, P T → (T.watch i).state = .held →
    Begins ((T.leaveLists i).modify i Watch.releasedNow) i (T.watch i).current
  held : ∀ {T i}, P T → (T.watch i).runs = true → P (holdWatch T i)
  skipped : ∀ {T w}, P T → (T.watch w).state = .concluded → P (skipAction T w)
  sentOut : ∀ {T} r, P T → P (T.sendOut r)
  sentNotice : ∀ {T} r, P T → P (T.sendNotice r)
  counted : ∀ {T i d p q kind n}, P T → (T.watch i).runs = true → (T.watch i).step = some d →
    d.kind = .edge p q kind n → Completes (T.modify i Watch.counted) i ∧
      ((T.watch i).counted.remaining ≠ 0 → P ((T.modify i Watch.counted).dropReachedLate c.now i))
  entered : ∀ {T i d p v mn mx} stamp, P T → (T.watch i).runs = true → (T.watch i).step = some d →
    d.kind = .span p v mn mx → P (enterSpan c T i mx stamp)
  left : ∀ {T i} s, P T → (T.watch i).runs = true → Completes (T.modify i fun w => { w with lastSpan := some s }) i

/-- A conclusion procedure under which `P` holds after every conclusion of a watch whose step may be ended. -/
def Concluder.Upholds (rec : Concluder) (P : Table → Prop) (Ends : Table → Idx → Prop) : Prop :=
  ∀ {T i o cause} t, Ends T i → Concludes o cause → P (rec T i o cause t)

/-- An occurrence is judged by the window: it concludes the watch, or the step goes on (R65). -/
theorem Concluder.Upholds.judged {rec : Concluder} {P : Table → Prop} {Ends : Table → Idx → Prop}
    (hrec : rec.Upholds P Ends) {T k : Table} {i : Idx} (hi : Ends T i) (hk : P k) (d : StepDesc) (start τ : Time) :
    P (judged rec T i d start τ k) := by
  unfold Machine.judged
  cases judgeWindow d start τ with
  | early => exact hrec τ hi ⟨by decide, by simp [OutcomePair]⟩
  | late due => exact hrec due hi ⟨by decide, rfl⟩
  | accepted => exact hk

namespace CascadeRules

variable {c : Ctx} {Armable : List StepDesc → Prop} {P : Table → Prop} {Ends Completes : Table → Idx → Prop}
  {Begins : Table → Idx → Nat → Prop} (h : CascadeRules c Armable P Ends Completes Begins) {T : Table} {i : Idx}

include h

/-- A group action of a CONCLUDED watch that examines each index by `f`; one that finds no member is skipped. -/
theorem group {w : Idx} {f : Table × Bool → Idx → Table × Bool}
    (hf : ∀ x j, P x.1 → f x j = x ∨ P (f x j).1 ∧ (f x j).2 = true) (hT : P T)
    (hw : (T.watch w).state = .concluded) : P (groupDone w (allWatches.foldl f (T, false))) := by
  have hpass : P (allWatches.foldl f (T, false)).1 ∧
      ((allWatches.foldl f (T, false)).2 = false → (allWatches.foldl f (T, false)).1 = T) := by
    refine List.foldlRecOn (motive := fun x : Table × Bool => P x.1 ∧ (x.2 = false → x.1 = T)) _ f
      ⟨hT, fun _ => rfl⟩ fun x ⟨hx, hnone⟩ j _ => ?_
    rcases hf x j hx with heq | ⟨hfx, hany⟩
    · rw [heq]
      exact ⟨hx, hnone⟩
    · exact ⟨hfx, fun hfalse => absurd (hany.symm.trans hfalse) (by decide)⟩
  unfold groupDone
  split
  · exact hpass.1
  · next hany =>
    rw [hpass.2 (by simpa using hany)]
    exact h.skipped hT hw

section Concluding

variable {rec : Concluder} (hrec : rec.Upholds P Ends)

include hrec

/-- A step begin stands, or is broken as it begins by its target or its guard (R49 to R52). -/
theorem beginStep {k : Nat} (t : Time) (hb : Begins T i k) : P (beginStep rec c T i k t) := by
  cases hstep : (T.watch i).steps[k]? with
  | none =>
    have hbegun : Machine.beginStep rec c T i k t = T.modify i fun w => w.begun k t := by
      unfold Machine.beginStep; rw [hstep]
    exact hbegun ▸ h.stepless t hb hstep
  | some d =>
    by_cases htarget : TargetFits T i d
    · by_cases hguard : GuardHolds c.view d
      · exact h.stands hb hstep htarget (beginStep_begun hstep rec c t htarget hguard)
      · rw [beginStep_guard hstep rec c t htarget hguard]
        exact hrec t (h.guarded hb hstep htarget (placeStep_begun c T i k t d)) ⟨by decide, by simp [OutcomePair]⟩
    · rw [beginStep_chainLost hstep rec c t htarget]
      exact hrec t (h.lost t hb) ⟨by decide, by simp [OutcomePair]⟩

theorem armWatch (t : Time) (hT : P T) (hidle : (T.watch i).state = .idle)
    (hlines : linesEnabled c.view (T.watch i) = true) : P (armWatch rec c T i t) :=
  h.beginStep hrec t (h.armed t hT hidle hlines)

theorem releaseWatch (hT : P T) (hheld : (T.watch i).state = .held) : P (releaseWatch rec c T i) :=
  releaseWatch_eq rec c T i ▸ h.beginStep hrec c.now (h.released hT hheld)

/-- A step completion ends the step, and the next begins or the watch concludes MET (R73). -/
theorem completeStep (t : Time) (hi : Completes T i) : P (completeStep rec c T i t) := by
  unfold Machine.completeStep
  dsimp only
  split
  · next hlt => exact h.beginStep hrec t (h.next hi hlt)
  · exact hrec t (h.ended (h.completes hi)) ⟨by decide, rfl⟩

/-- An action is carried out where its condition holds, or counted as skipped (R82 to R89). -/
theorem runAction {w : Idx} (t : Time) (a : Action) (hT : P T) (hw : (T.watch w).state = .concluded) :
    P (runAction rec c w t T a) := by
  cases a with
  | notify =>
    unfold Machine.runAction
    dsimp only
    split
    · exact h.skipped hT hw
    · exact h.sentNotice _ hT
  | outSet o | outClear o | outRelease o => exact h.sentOut _ hT
  | arm x =>
    unfold Machine.runAction
    dsimp only
    split
    · next happlies =>
      simp only [armActionApplies, Bool.and_eq_true, decide_eq_true_eq] at happlies
      exact h.armWatch hrec t hT happlies.1.1 happlies.2
    · exact h.skipped hT hw
  | cancel x =>
    unfold Machine.runAction
    dsimp only
    split
    · next happlies =>
      obtain ⟨hstate, -⟩ := cancelActionApplies_iff.1 happlies
      exact hrec t (h.live hT (Watch.live_iff.2 hstate)) ⟨by decide, .inr rfl⟩
    · exact h.skipped hT hw
  | holdGroup g =>
    refine h.group (fun x j hx => ?_) hT hw
    rw [holdMember_eq]
    split
    · next hmember => exact .inr ⟨h.held hx (holdsMember_iff.1 hmember).2, rfl⟩
    · exact .inl rfl
  | releaseGroup g =>
    refine h.group (fun x j hx => ?_) hT hw
    by_cases hmember : ReleaseMember x.1 w g j
    · rw [releaseMember_of_member x.2 hmember]
      exact .inr ⟨h.releaseWatch hrec hx hmember.2.2, rfl⟩
    · exact .inl (releaseMember_of_not_member x.2 hmember)

/-- A delivery is skipped, or judged for a follower that runs (R70, R90). -/
theorem deliver (w : Idx) (o : WOutcome) (t : Time) (entry : Idx × BitVec 16) (hT : P T) :
    P (deliver rec c w o t T entry) := by
  unfold Machine.deliver
  dsimp only
  by_cases hskip : ((T.watch entry.1).epoch ≠ entry.2 || !(T.watch entry.1).runs) = true
  · rwa [if_pos hskip]
  have hruns : (T.watch entry.1).runs = true := by simp_all
  rw [if_neg hskip]
  cases (T.watch entry.1).step with
  | none => exact hT
  | some d =>
    dsimp only
    cases d.kind with
    | edge | span | delay => exact hT
    | follow tgt wanted =>
      dsimp only
      split
      · refine hrec.judged (h.completes (h.runs hT hruns)) ?_ ..
        split
        · exact h.completeStep hrec _ (h.runs hT hruns)
        · exact hrec _ (h.completes (h.runs hT hruns)) ⟨by decide, by simp [OutcomePair]⟩
      · exact hT

/-- The actions of a watch that has concluded; it rests while they run (R79). -/
theorem runActions (hset : rec.Settles) (t : Time) (acts : List Action) (hT : P T)
    (hi : (T.watch i).state = .concluded) : P (acts.foldl (Machine.runAction rec c i t) T) := by
  induction acts generalizing T with
  | nil => exact hT
  | cons a acts ih =>
    have hstays : Stays {i} T (Machine.runAction rec c i t T a) :=
      (runAction_cascades (Set.mem_singleton i) c t a T).stays hset
    exact ih (h.runAction hrec t a hT hi) ((hstays i hi).state.trans hi)

/-- A conclusion with its whole cascade, the nested conclusions by `rec` (R78). -/
theorem concludeWith (hset : rec.Settles) : (concludeWith rec c).Upholds P Ends := by
  intro T i o cause t hi hcause
  have hserved : P (servedTable rec c T i o cause t) :=
    List.foldlRecOn _ _
      (h.runActions hrec hset t _ (h.concluded t hi hcause) (recordedTable_state cause t))
      fun _ hT x _ => h.deliver hrec i o t x hT
  rw [concludeWith_eq]
  split
  · have hrests := servedTable_stays (T := T) (o := o) hset c cause t i (recordedTable_state cause t)
    have hsteps : ((servedTable rec c T i o cause t).watch i).steps = (T.watch i).steps := by
      rw [hrests.record, recordedTable_watch]
      rfl
    exact h.beginStep hrec t (h.rearmed t hserved (hrests.state.trans (recordedTable_state cause t))
      (hsteps ▸ h.armable hi))
  · exact hserved

end Concluding

/-- Every conclusion procedure of the model upholds `P`. -/
theorem conclude (n : Nat) : (conclude c n).Upholds P Ends := by
  induction n with
  | zero => exact fun t hi hcause => h.concluded t hi hcause
  | succ n ih => exact h.concludeWith ih (conclude_settles c n)

theorem concluder : (concluder c).Upholds P Ends := h.conclude _

section Serving

variable {rec : Concluder} (hrec : rec.Upholds P Ends)

include hrec

theorem countEdge (stamp : Time) (hcounted : Completes (T.modify i Watch.counted) i ∧
    ((T.watch i).counted.remaining ≠ 0 → P ((T.modify i Watch.counted).dropReachedLate c.now i))) :
    P (countEdge rec c T i stamp) := by
  have heq : Machine.countEdge rec c T i stamp =
      if (T.watch i).counted.remaining = 0 then Machine.completeStep rec c (T.modify i Watch.counted) i stamp
      else (T.modify i Watch.counted).dropReachedLate c.now i := by
    rw [← Table.watch_modify_same T i Watch.counted]
    rfl
  rw [heq]
  split
  · exact h.completeStep hrec stamp hcounted.1
  · next hleft => exact hcounted.2 hleft

theorem leaveSpan (mn mx : Option Duration) (stamp : Time) (hT : P T) (hruns : (T.watch i).runs = true) :
    P (leaveSpan rec c T i mn mx stamp) := by
  have hleft := h.left (clampSpan (stamp - (T.watch i).spanStart.getD 0)) hT hruns
  unfold Machine.leaveSpan
  dsimp only
  split
  · exact hrec _ (h.completes hleft) ⟨by decide, by simp [OutcomePair]⟩
  · split
    · split
      · exact hrec _ (h.completes hleft) ⟨by decide, by simp [OutcomePair]⟩
      · exact h.completeStep hrec _ hleft
    · exact h.completeStep hrec _ hleft

/-- An edge offered to a TRIGGER entry of a watch that runs (R66 to R68). -/
theorem serveTrigger (dir : EdgeDir) (stamp : Time) (hT : P T) (hruns : (T.watch i).runs = true) :
    P (serveTrigger rec c T i dir stamp) := by
  have hends := h.completes (h.runs hT hruns)
  unfold Machine.serveTrigger
  dsimp only
  cases hstep : (T.watch i).step with
  | none => exact hT
  | some d =>
    dsimp only
    cases hkind : d.kind with
    | edge p q kind n =>
      dsimp only
      split
      · exact hrec.judged hends (h.countEdge hrec stamp (h.counted hT hruns hstep hkind)) ..
      · exact hT
    | span p v mn mx =>
      dsimp only
      cases (T.watch i).phase with
      | waitEntry =>
        dsimp only
        split
        · exact hrec.judged hends (h.entered stamp hT hruns hstep hkind) ..
        · exact hT
      | inSpan =>
        dsimp only
        split
        · exact hT
        · exact h.leaveSpan hrec mn mx stamp hT hruns
      | none => exact hT
    | delay len | follow tgt wanted => exact hT

/-- A snapshot entry is skipped, or served to a watch that runs (R60 to R64). -/
theorem serveEntry (e : Edge) (x : SnapEntry) (hT : P T) : P (serveEntry rec c e T x) := by
  unfold Machine.serveEntry
  dsimp only
  by_cases hskip : ((T.watch x.watch).epoch ≠ x.epoch || !(T.watch x.watch).runs) = true
  · rwa [if_pos hskip]
  have hruns : (T.watch x.watch).runs = true := by simp_all
  have hends := h.completes (h.runs hT hruns)
  rw [if_neg hskip]
  split
  · exact hrec _ hends ⟨by decide, by simp [OutcomePair]⟩
  · split
    · exact hrec _ hends ⟨by decide, by simp [OutcomePair]⟩
    · split
      · exact h.serveTrigger hrec e.dir e.stamp hT hruns
      · exact hT

end Serving

/-- An edge served to a line's listeners (R59). -/
theorem serveLine (l : Line) (e : Edge) (hT : P T) : P (serveLine c T l e) :=
  List.foldlRecOn _ _ hT fun _ hT x _ => h.serveEntry h.concluder e x hT

/-- An expiry of a watch whose step may complete (R71). -/
theorem expire {d : Deadline} (hd : Completes T d.watch) : P (expire c T d) := by
  unfold Machine.expire
  cases d.kind with
  | late => exact h.concluder _ (h.completes hd) ⟨by decide, rfl⟩
  | delayEnd => exact h.completeStep h.concluder _ hd
  | spanLong => exact h.concluder _ (h.completes hd) ⟨by decide, by simp [OutcomePair]⟩

end CascadeRules

end Sys2Proof.Machine

/-! PROOFS. The rules for an invariant of the records alone, and what follows for every cascade: the steps of FREE
watches (O55), the records as R1 to R5 allow them (O57) and the lines of live watches (O60). -/

namespace Sys2Proof.Machine

open Sys2Proof

/-- The record of a watch that enters its span at an edge (R67, R72). -/
def Watch.entered (stamp : Time) (w : Watch) : Watch :=
  { w.progressed with spanStart := some stamp, phase := .inSpan }

/-! ### The rules an invariant of the records has to meet -/

/-- The rules of a cascade for an invariant that holds of each record by itself: `R` between the operations, and `Ends`,
`Completes` and `Begins` of the record under operation, as in `CascadeRules`. -/
structure RecordRules (c : Ctx) (Armable : List StepDesc → Prop) (R Ends Completes : Watch → Prop)
    (Begins : Watch → Nat → Prop) : Prop where
  live : ∀ {w}, R w → w.live = true → Ends w
  runs : ∀ {w}, R w → w.runs = true → Completes w
  completes : ∀ {w}, Completes w → Ends w
  armable : ∀ {w}, Ends w → Armable w.steps
  concluded : ∀ {w o cause} t, Ends w → Concludes o cause → R (w.ended o cause t)
  next : ∀ {w}, Completes w → w.current + 1 < w.steps.length → Begins { w with state := .running } (w.current + 1)
  stands : ∀ {w k d} t, Begins w k → w.steps[k]? = some d → R (w.onStep k t d)
  guarded : ∀ {w k d} t, Begins w k → w.steps[k]? = some d → Ends (w.onStep k t d)
  lost : ∀ {w k} t, Begins w k → Ends (w.begun k t)
  stepless : ∀ {w k} t, Begins w k → w.steps[k]? = none → R (w.begun k t)
  armed : ∀ {w} t, R w → w.state = .idle → linesEnabled c.view w = true → Begins (w.armedWith t) 0
  rearmed : ∀ {w} t, R w → w.state = .concluded → Armable w.steps → Begins (w.rearmed t) 0
  released : ∀ {w}, R w → w.state = .held → Begins w.releasedNow w.current
  held : ∀ {w}, R w → w.runs = true → R w.heldNow
  skipped : ∀ {w}, R w → w.state = .concluded → R { w with skipped := satInc w.skipped }
  counted : ∀ {w d p q kind n}, R w → w.runs = true → w.step = some d → d.kind = .edge p q kind n →
    Completes w.counted ∧ (w.counted.remaining ≠ 0 → R w.counted)
  entered : ∀ {w d p v mn mx} stamp, R w → w.runs = true → w.step = some d → d.kind = .span p v mn mx →
    R (w.entered stamp)
  left : ∀ {w} s, R w → w.runs = true → Completes { w with lastSpan := some s }

/-- Every record but that of watch `i` is as `R` says, and that one as `X` says. -/
structure AllBut (R X : Watch → Prop) (T : Table) (i : Idx) : Prop where
  others : ∀ j, j ≠ i → R (T.watch j)
  one : X (T.watch i)

namespace AllBut

variable {R X Y : Watch → Prop} {T T' : Table} {i : Idx}

theorem of_all (h : ∀ j, R (T.watch j)) (hi : X (T.watch i)) : AllBut R X T i := ⟨fun j _ => h j, hi⟩

theorem all (h : AllBut R R T i) (j : Idx) : R (T.watch j) := by
  by_cases hj : j = i
  · exact hj ▸ h.one
  · exact h.others j hj

theorem imp (h : AllBut R X T i) (hi : X (T.watch i) → Y (T.watch i)) : AllBut R Y T i := ⟨h.others, hi h.one⟩

/-- An operation that leaves every record. -/
theorem congr (h : AllBut R X T i) (hw : ∀ j, T'.watch j = T.watch j) : AllBut R X T' i :=
  ⟨fun j hj => hw j ▸ h.others j hj, hw i ▸ h.one⟩

theorem modify (h : AllBut R X T i) {f : Watch → Watch} (hf : X (T.watch i) → Y (f (T.watch i))) :
    AllBut R Y (T.modify i f) i where
  others j hj := Table.watch_modify_ne T f hj ▸ h.others j hj
  one := Table.watch_modify_same T i f ▸ hf h.one

/-- A step begun changes the record of its own watch alone. -/
theorem begun {c : Ctx} {k : Nat} {t : Time} {d : StepDesc} (h : AllBut R X T i) (hb : StepBegun c T T' i k t d)
    (hf : X (T.watch i) → Y ((T.watch i).onStep k t d)) : AllBut R Y T' i where
  others j hj := hb.others j hj ▸ h.others j hj
  one := by
    rw [hb.watch]
    exact hf h.one

end AllBut

/-- An invariant of the records that meets its rules meets those of the table. -/
theorem RecordRules.cascade {c : Ctx} {Armable : List StepDesc → Prop} {R Ends Completes : Watch → Prop}
    {Begins : Watch → Nat → Prop} (h : RecordRules c Armable R Ends Completes Begins) :
    CascadeRules c Armable (fun T => ∀ j, R (T.watch j)) (AllBut R Ends) (AllBut R Completes)
      fun T i k => AllBut R (Begins · k) T i where
  live hT hi := .of_all hT (h.live (hT _) hi)
  runs hT hi := .of_all hT (h.runs (hT _) hi)
  completes hi := hi.imp h.completes
  armable hi := h.armable hi.one
  ended hi := hi.congr fun j => watch_endStep ..
  concluded {T i o cause} t hi hcause j := by
    have hrecorded : AllBut R R (T.modify i fun w => w.concludedWith o cause t) i :=
      hi.modify fun hi => Watch.concludedWith_eq_ended _ o cause t ▸ h.concluded t hi hcause
    rw [recordedTable, watch_endStep]
    exact hrecorded.all j
  next {T i} hi hlt := by
    have hended : AllBut R Completes (endStep T i) i := hi.congr fun j => watch_endStep ..
    refine hended.modify fun hi => ?_
    rw [watch_endStep] at hi ⊢
    exact h.next hi hlt
  stands hb hstep _ hbegun := (hb.begun hbegun fun hi => h.stands _ hi hstep).all
  guarded {_ _ _ k t d} hb hstep _ hbegun :=
    hb.begun hbegun fun hi => show Ends (Watch.onStep _ k t d) from h.guarded t hi hstep
  lost t hb := hb.modify (h.lost t)
  stepless t hb hstep := (hb.modify fun hi => h.stepless t hi hstep).all
  armed t hT hidle hlines := (AllBut.of_all (X := R) hT (hT _)).modify fun hi => h.armed t hi hidle hlines
  rearmed t hT hstate ha := (AllBut.of_all (X := R) hT (hT _)).modify fun hi => h.rearmed t hi hstate ha
  released {T i} hT hheld := by
    have hleft : AllBut R R (T.leaveLists i) i :=
      (AllBut.of_all hT (hT _)).congr fun j => Table.watch_leaveLists ..
    refine hleft.modify fun hi => ?_
    rw [Table.watch_leaveLists] at hi ⊢
    exact h.released hi hheld
  held {T i} hT hruns j := by
    rw [watch_holdWatch]
    split
    · exact h.held (hT i) hruns
    · exact hT j
  skipped {T w} hT hw := by
    have hall : AllBut R R T w := .of_all hT (hT w)
    exact (hall.modify fun hi => h.skipped hi hw).all
  sentOut _ hT := hT
  sentNotice _ hT := hT
  counted {T i _ _ _ _ _} hT hruns hstep hkind := by
    obtain ⟨hcompletes, hleft⟩ := h.counted (hT i) hruns hstep hkind
    have hall : AllBut R R T i := .of_all hT (hT i)
    exact ⟨hall.modify fun _ => hcompletes, fun hne => (hall.modify fun _ => hleft hne).all⟩
  entered {T i _ _ _ _ mx} stamp hT hruns hstep hkind j := by
    have hentered : AllBut R R (T.modify i (Watch.entered stamp)) i :=
      (AllBut.of_all hT (hT i)).modify fun hi => h.entered stamp hi hruns hstep hkind
    cases mx <;> exact hentered.all j
  left s hT hruns := (AllBut.of_all hT (hT _)).modify fun hi => h.left s hi hruns

theorem Watch.progressed_of_runs {w : Watch} (h : w.runs = true) : w.progressed = { w with state := .running } := by
  unfold Watch.progressed
  split
  · rfl
  · next harmed =>
    have hrunning : w.state = .running := by simpa [Watch.runs, harmed] using h
    rw [← hrunning]

theorem Watch.releasedNow_runs (w : Watch) : w.releasedNow.runs = true := by
  cases h : w.heldFrom.getD .armed <;> simp [Watch.releasedNow, RunState.toWState, Watch.runs, h]

theorem Watch.not_free_of_runs {w : Watch} (h : w.runs = true) : w.state ≠ .free := by
  intro hfree
  simp [Watch.runs, hfree] at h

/-! ### The steps of a FREE watch (R12, R26) -/

/-- A FREE watch holds no steps. -/
def FreeEmpty (w : Watch) : Prop := w.state = .free → w.steps = []

theorem FreeEmpty.of_not_free {w : Watch} (h : w.state ≠ .free) : FreeEmpty w := fun hfree => absurd hfree h

/-- No cascade makes a watch FREE, and none changes its steps. -/
theorem freeEmpty_rules (c : Ctx) :
    RecordRules c (fun _ => True) FreeEmpty FreeEmpty FreeEmpty fun w _ => FreeEmpty w where
  live h _ := h
  runs h _ := h
  completes h := h
  armable _ := trivial
  concluded _ _ _ := .of_not_free nofun
  next _ _ := .of_not_free nofun
  stands _ h _ := h
  guarded _ h _ := h
  lost _ h := h
  stepless _ h _ := h
  armed _ _ _ _ := .of_not_free nofun
  rearmed _ _ _ _ := .of_not_free nofun
  released _ _ := .of_not_free (Watch.not_free_of_runs (Watch.releasedNow_runs _))
  held _ _ := .of_not_free nofun
  skipped h _ := h
  counted {w _ _ _ _ _} _ hruns _ _ := by
    have hcounted : FreeEmpty w.counted := .of_not_free (by simp [Watch.counted, Watch.progressed_of_runs hruns])
    exact ⟨hcounted, fun _ => hcounted⟩
  entered _ _ hruns _ _ := .of_not_free (by simp [Watch.entered, Watch.progressed_of_runs hruns])
  left _ h _ := h

/-! ### The lines of a live watch (R43, R141) -/

/-- Every line these steps name is enabled in the view. -/
def LinesOn (view : Vector LineView 24) (steps : List StepDesc) : Prop :=
  ∀ l ∈ steps.flatMap StepDesc.lines, view[l].enabled = true

/-- A cascade starts the run of a watch where ARM would, or starts it again: the view stands still (R43, R93). -/
theorem linesOn_rules (c : Ctx) : RecordRules c (LinesOn c.view)
    (fun w => w.live = true → LinesOn c.view w.steps) (fun w => LinesOn c.view w.steps)
    (fun w => LinesOn c.view w.steps) fun w _ => LinesOn c.view w.steps where
  live h hlive := h hlive
  runs h hruns := h (Watch.live_of_runs hruns)
  completes h := h
  armable h := h
  concluded _ h _ _ := h
  next h _ := h
  stands _ h _ _ := h
  guarded _ h _ := h
  lost _ h := h
  stepless _ h _ _ := h
  armed {w} _ _ _ hlines := fun l hl => List.all_eq_true.1 hlines l hl
  rearmed _ _ _ ha := ha
  released h hheld := h (by simp [Watch.live_iff, hheld])
  held h hruns _ := h (Watch.live_of_runs hruns)
  skipped h _ := h
  counted {w _ _ _ _ _} h hruns _ _ := by
    have hlines : LinesOn c.view w.counted.steps := by
      rw [Watch.counted, Watch.progressed_of_runs hruns]
      exact h (Watch.live_of_runs hruns)
    exact ⟨hlines, fun _ _ => hlines⟩
  entered _ h hruns _ _ _ := by
    rw [Watch.entered, Watch.progressed_of_runs hruns]
    exact h (Watch.live_of_runs hruns)
  left _ h hruns := h (Watch.live_of_runs hruns)

/-! ### The records (R1 to R5, R75) -/

/-- The definition of a watch that has left DRAFT is as R1, R2 and R27 allow. -/
structure SealedWf (w : Watch) : Prop where
  identity : w.tag.isSome = true ∧ w.tag ≠ some 0 ∧ w.owner.isSome = true
  counts : w.steps.length ≤ 6 ∧ w.metActions.length ≤ 4 ∧ w.failActions.length ≤ 4
  nonempty : w.steps ≠ []
  ranges : ∀ d ∈ w.steps, d.InRange

/-- The items of a record that runs and conclusions write fit each other, but for the progress of a step (R3, R4). -/
structure RunWf (w : Watch) : Prop where
  held : w.heldFrom.isSome = true ↔ w.state = .held
  span : w.spanStart.isSome = true ↔ w.phase = .inSpan
  result : OutcomePair w.outcome w.cause
  failing : w.failing.isSome = true ↔ w.outcome = .missed ∨ w.outcome = .broken
  concluded : w.concludedAt.isSome = true ↔ w.outcome ≠ .none
  steps : w.current < 6 ∧ ∀ k, w.failing = some k → k < 6

theorem WatchWf.run {w : Watch} (h : WatchWf w) : RunWf w := { h with }

theorem WatchWf.sealed {w : Watch} (h : WatchWf w) (hfree : w.state ≠ .free) (hdraft : w.state ≠ .draft) : SealedWf w :=
  ⟨h.identity hfree, h.counts, h.sealedCount hfree hdraft, h.ranges⟩

/-- A record that has left DRAFT is well formed with its definition, its run and, while it is live, its progress. -/
theorem WatchWf.of_sealed {w : Watch} (hdef : SealedWf w) (hrun : RunWf w) (hfree : w.state ≠ .free)
    (hprogress : w.live = true → w.stepStart.isSome = true ∧ ProgressFits w) : WatchWf w :=
  { hdef, hrun with
    free := fun h => absurd h hfree
    identity := fun _ => hdef.identity
    sealedCount := fun _ _ => hdef.nonempty
    progress := hprogress }

/-- A live watch's record, its progress aside. -/
structure LiveWf (w : Watch) : Prop where
  sealed : SealedWf w
  run : RunWf w
  live : w.live = true

/-- The record of a watch that runs, its progress aside. -/
structure RunningWf (w : Watch) : Prop where
  sealed : SealedWf w
  run : RunWf w
  runs : w.runs = true

/-- The record of a watch that begins its step `k`, which it has. -/
structure BeginsWf (w : Watch) (k : Nat) : Prop extends RunningWf w where
  inRange : k < w.steps.length

theorem Watch.not_free_of_live {w : Watch} (h : w.live = true) : w.state ≠ .free := by
  rintro hfree
  simp [Watch.live_iff, hfree] at h

theorem Watch.not_draft_of_live {w : Watch} (h : w.live = true) : w.state ≠ .draft := by
  rintro hdraft
  simp [Watch.live_iff, hdraft] at h

theorem WatchWf.toLive {w : Watch} (h : WatchWf w) (hlive : w.live = true) : LiveWf w :=
  ⟨h.sealed (Watch.not_free_of_live hlive) (Watch.not_draft_of_live hlive), h.run, hlive⟩

theorem WatchWf.toRunning {w : Watch} (h : WatchWf w) (hruns : w.runs = true) : RunningWf w :=
  ⟨(h.toLive (Watch.live_of_runs hruns)).sealed, h.run, hruns⟩

theorem RunningWf.toLive {w : Watch} (h : RunningWf w) : LiveWf w := ⟨h.sealed, h.run, Watch.live_of_runs h.runs⟩

/-- A watch that runs was held from nothing (R3). -/
theorem RunningWf.heldFrom_eq_none {w : Watch} (h : RunningWf w) : w.heldFrom = none := by
  have hheld : ¬w.heldFrom.isSome = true := by
    rw [h.run.held]
    rintro hstate
    simpa [Watch.runs, hstate] using h.runs
  simpa using hheld

/-- A conclusion of a live watch is recorded as R4 and R76 allow. -/
theorem LiveWf.ended {w : Watch} (h : LiveWf w) {o : WOutcome} {cause : Cause} (hcause : Concludes o cause) (t : Time) :
    WatchWf (w.ended o cause t) := by
  refine .of_sealed { h.sealed with } ?_ nofun nofun
  refine { h.run with held := ?_, result := hcause.2, failing := ?_, concluded := ?_, steps := ?_ }
  · simp [Watch.ended]
  · cases o <;> simp [Watch.ended]
  · simpa [Watch.ended] using hcause.1
  · refine ⟨h.run.steps.1, fun k hk => ?_⟩
    cases o <;> simp [Watch.ended] at hk
    all_goals exact hk ▸ h.run.steps.1

/-- The next step of a watch whose step completes begins in RUNNING (R73). -/
theorem RunningWf.next {w : Watch} (h : RunningWf w) (hlt : w.current + 1 < w.steps.length) :
    BeginsWf { w with state := .running } (w.current + 1) where
  sealed := { h.sealed with }
  run := { h.run with held := by simp [h.heldFrom_eq_none] }
  runs := rfl
  inRange := hlt

namespace BeginsWf

variable {w : Watch} {k : Nat} (h : BeginsWf w k)

include h

theorem current_lt : k < 6 := h.inRange.trans_le h.sealed.counts.1

theorem begun (t : Time) : RunningWf (w.begun k t) where
  sealed := { h.sealed with }
  run := { h.run with span := by simp [Watch.begun], steps := ⟨h.current_lt, h.run.steps.2⟩ }
  runs := h.runs

theorem onStep (t : Time) (d : StepDesc) : RunningWf (w.onStep k t d) where
  sealed := { h.sealed with }
  run := { h.run with
    span := by
      have hphase : d.firstPhase ≠ .inSpan := by
        unfold StepDesc.firstPhase
        split <;> nofun
      simp [Watch.onStep, hphase]
    steps := ⟨h.current_lt, h.run.steps.2⟩ }
  runs := h.runs

/-- A step that stands has the progress its kind begins with (R50, R75). -/
theorem onStep_progressFits {d : StepDesc} (hstep : w.steps[k]? = some d) (t : Time) :
    ProgressFits (w.onStep k t d) := by
  refine ⟨d, hstep, ?_⟩
  have hrange : d.kind.InRange := (h.sealed.ranges d (List.mem_of_getElem? hstep)).1
  cases hkind : d.kind with
  | edge p q kind n =>
    rw [hkind] at hrange
    have hn : 0 < n.toNat := Nat.pos_of_ne_zero fun hzero => hrange (BitVec.eq_of_toNat_eq hzero)
    simpa [Watch.onStep, StepDesc.firstPhase, StepDesc.firstCount, hkind] using Nat.succ_le_of_lt hn
  | span | delay | follow => simp [Watch.onStep, StepDesc.firstPhase, StepDesc.firstCount, hkind]

end BeginsWf

/-- A sealed watch whose results are cleared, or whose cycle goes on, may begin its step 0. -/
theorem SealedWf.begins {w : Watch} (h : SealedWf w) (hrun : RunWf w) (hruns : w.runs = true) : BeginsWf w 0 :=
  ⟨⟨h, hrun, hruns⟩, List.length_pos_iff.2 h.nonempty⟩

theorem WatchWf.armedWith {w : Watch} (h : WatchWf w) (hidle : w.state = .idle) (t : Time) :
    BeginsWf (w.armedWith t) 0 := by
  have hdef := h.sealed (by simp [hidle]) (by simp [hidle])
  have hrun : RunWf (w.armedWith t) :=
    { h.run with
      held := by simp [Watch.armedWith], result := rfl, failing := by simp [Watch.armedWith]
      concluded := by simp [Watch.armedWith], steps := ⟨h.steps.1, nofun⟩ }
  exact SealedWf.begins { hdef with } hrun rfl

theorem WatchWf.rearmed {w : Watch} (h : WatchWf w) (hstate : w.state = .concluded) (t : Time) :
    BeginsWf (w.rearmed t) 0 := by
  have hdef := h.sealed (by simp [hstate]) (by simp [hstate])
  have hheld : w.heldFrom.isSome = true ↔ WState.concluded = .held := hstate ▸ h.held
  have hrun : RunWf (w.rearmed t) := { h.run with held := by simpa [Watch.rearmed] using hheld }
  exact SealedWf.begins { hdef with } hrun rfl

/-- A HELD watch has a current step to begin again (R75, R103). -/
theorem WatchWf.releasedNow {w : Watch} (h : WatchWf w) (hheld : w.state = .held) :
    BeginsWf w.releasedNow w.current := by
  have hlive : w.live = true := by simp [Watch.live_iff, hheld]
  have hnot : w.releasedNow.state ≠ .held := by
    intro hstate
    simpa [Watch.runs, hstate] using w.releasedNow_runs
  obtain ⟨-, d, hstep, -⟩ := h.progress hlive
  refine ⟨⟨{ (h.toLive hlive).sealed with }, { h.run with held := ?_ }, w.releasedNow_runs⟩, ?_⟩
  · simpa [Watch.releasedNow] using hnot
  · exact (List.getElem?_eq_some_iff.1 hstep).1

theorem WatchWf.heldNow {w : Watch} (h : WatchWf w) (hruns : w.runs = true) : WatchWf w.heldNow := by
  have hrunning := h.toRunning hruns
  refine .of_sealed { hrunning.sealed with } { h.run with held := by simp [Watch.heldNow] } nofun fun _ => ?_
  obtain ⟨hstart, hfits⟩ := h.progress (Watch.live_of_runs hruns)
  exact ⟨hstart, hfits⟩

/-- An edge counted leaves a count from 1 on, or the step completes (R66, R75). -/
theorem WatchWf.counted {w : Watch} {d : StepDesc} {p : Line} {q : Option Line} {kind : EdgeKind} {n : Byte}
    (h : WatchWf w) (hruns : w.runs = true) (hstep : w.step = some d) (hkind : d.kind = .edge p q kind n) :
    RunningWf w.counted ∧ (w.counted.remaining ≠ 0 → WatchWf w.counted) := by
  have hrunning := h.toRunning hruns
  rw [Watch.counted, Watch.progressed_of_runs hruns]
  have hrun : RunWf { w with state := .running, remaining := w.remaining - 1 } :=
    { h.run with held := by simp [hrunning.heldFrom_eq_none] }
  refine ⟨⟨{ hrunning.sealed with }, hrun, rfl⟩, fun hleft =>
    .of_sealed { hrunning.sealed with } hrun nofun fun _ => ?_⟩
  obtain ⟨hstart, d', hstep', hfits⟩ := h.progress (Watch.live_of_runs hruns)
  obtain rfl : d' = d := Option.some.inj (hstep'.symm.trans hstep)
  rw [hkind] at hfits
  obtain ⟨hpos, hle, hphase⟩ := hfits
  refine ⟨hstart, d', hstep, ?_⟩
  rw [hkind]
  exact ⟨by bv_omega, by bv_omega, hphase⟩

/-- A watch in its span has the span start that IN_SPAN asks for (R3, R67). -/
theorem WatchWf.entered {w : Watch} {d : StepDesc} {p : Line} {v : Level} {mn mx : Option Duration} (stamp : Time)
    (h : WatchWf w) (hruns : w.runs = true) (hstep : w.step = some d) (hkind : d.kind = .span p v mn mx) :
    WatchWf (w.entered stamp) := by
  have hrunning := h.toRunning hruns
  rw [Watch.entered, Watch.progressed_of_runs hruns]
  refine .of_sealed { hrunning.sealed with }
    { h.run with held := by simp [hrunning.heldFrom_eq_none], span := by simp } nofun fun _ => ?_
  obtain ⟨hstart, d', hstep', hfits⟩ := h.progress (Watch.live_of_runs hruns)
  obtain rfl : d' = d := Option.some.inj (hstep'.symm.trans hstep)
  rw [hkind] at hfits
  obtain ⟨hcount, -⟩ := hfits
  refine ⟨hstart, d', hstep, ?_⟩
  rw [hkind]
  exact ⟨hcount, nofun⟩

/-- Every cascade keeps the records well formed. -/
theorem watchWf_rules (c : Ctx) : RecordRules c (fun _ => True) WatchWf LiveWf RunningWf BeginsWf where
  live h hlive := h.toLive hlive
  runs h hruns := h.toRunning hruns
  completes h := h.toLive
  armable _ := trivial
  concluded t h hcause := h.ended hcause t
  next h hlt := h.next hlt
  stands t h hstep :=
    have hrunning := h.onStep t _
    .of_sealed hrunning.sealed hrunning.run (Watch.not_free_of_runs hrunning.runs) fun _ =>
      ⟨rfl, h.onStep_progressFits hstep t⟩
  guarded t h _ := (h.onStep t _).toLive
  lost t h := (h.begun t).toLive
  stepless t h hnone := absurd h.inRange (Nat.not_lt.2 (List.getElem?_eq_none_iff.1 hnone))
  armed t h hidle _ := h.armedWith hidle t
  rearmed t h hstate _ := h.rearmed hstate t
  released h hheld := h.releasedNow hheld
  held h hruns := h.heldNow hruns
  skipped h hstate :=
    .of_sealed { h.sealed (by simp [hstate]) (by simp [hstate]) with } { h.run with } (by simp [hstate])
      fun hlive => absurd hstate (Watch.ne_concluded_of_live hlive)
  counted h hruns hstep hkind := h.counted hruns hstep hkind
  entered stamp h hruns hstep hkind := h.entered stamp hruns hstep hkind
  left _ h hruns := ⟨{ (h.toRunning hruns).sealed with }, { h.run with }, hruns⟩

end Sys2Proof.Machine

/-! PROOFS. What a step can do to the engine and to the lines' configurations, said once: an act of the engine, one of
the line family, or a reset; everything else is quiet. Every invariant of the engine is then kept by every step if the acts
keep it. -/

namespace Sys2Proof.Machine

open Sys2Proof

/-! ### What is quiet -/

/-- Nothing but paths, sweeps and the port last served differs, and the view. -/
structure SameRecords (e e' : Engine) : Prop where
  watches : e'.table.watches = e.table.watches
  listeners : e'.table.listeners = e.table.listeners
  followers : e'.table.followers = e.table.followers
  deadlines : e'.table.deadlines = e.table.deadlines
  tags : e'.tags = e.tags
  freeSlots : e'.freeSlots = e.freeSlots

theorem SameRecords.refl (e : Engine) : SameRecords e e := ⟨rfl, rfl, rfl, rfl, rfl, rfl⟩

theorem SameRecords.watch {e e' : Engine} (h : SameRecords e e') (i : Idx) : e'.watch i = e.watch i :=
  Table.watch_congr h.watches i

/-- A happening that touches no record, no list, no view, and no configuration under way. -/
structure Quiet (s t : State) : Prop where
  records : SameRecords s.engine t.engine
  view : t.engine.view = s.engine.view
  path : t.linePath = s.linePath
  lines : ∀ l, (t.line l).config = (s.line l).config ∧ (t.line l).report = (s.line l).report

namespace Quiet

variable {s t u : State}

theorem refl (s : State) : Quiet s s := ⟨.refl _, rfl, rfl, fun _ => ⟨rfl, rfl⟩⟩

theorem trans (h : Quiet s t) (k : Quiet t u) : Quiet s u where
  records :=
    ⟨k.records.watches.trans h.records.watches, k.records.listeners.trans h.records.listeners,
      k.records.followers.trans h.records.followers, k.records.deadlines.trans h.records.deadlines,
      k.records.tags.trans h.records.tags, k.records.freeSlots.trans h.records.freeSlots⟩
  view := k.view.trans h.view
  path := k.path.trans h.path
  lines l := ⟨(k.lines l).1.trans (h.lines l).1, (k.lines l).2.trans (h.lines l).2⟩

/-- A happening of another block that leaves the lines. -/
theorem of_engine (he : t.engine = s.engine) (hpath : t.linePath = s.linePath) (hlines : t.lineUnit = s.lineUnit) :
    Quiet s t where
  records := he ▸ .refl _
  view := he ▸ rfl
  path := hpath
  lines l := by
    have hl : t.line l = s.line l := by rw [State.line, hlines, State.line]
    rw [hl]
    exact ⟨rfl, rfl⟩

/-- A happening of the Line Unit that leaves its configurations and its reports. -/
theorem of_lines (he : t.engine = s.engine) (hpath : t.linePath = s.linePath)
    (hlines : ∀ l, (t.line l).config = (s.line l).config ∧ (t.line l).report = (s.line l).report) : Quiet s t :=
  ⟨he ▸ .refl _, he ▸ rfl, hpath, hlines⟩

/-- A change of the engine's paths, sweeps or port last served. -/
theorem setEngine (s : State) {e : Engine} (h : SameRecords s.engine e) (hview : e.view = s.engine.view) :
    Quiet s (s.setEngine e) := ⟨h, hview, rfl, fun _ => ⟨rfl, rfl⟩⟩

theorem setPort (s : State) (p : Port) (x : PortState) : Quiet s (s.setPort p x) := of_engine rfl rfl rfl

theorem of_onlyPort {p : Port} (h : OnlyPort p s t) : Quiet s t := by
  obtain ⟨x, rfl⟩ := h
  exact setPort s p x

theorem setSweep (s : State) (p : Port) (r : SweepRecord) : Quiet s (s.setSweep p r) :=
  setEngine s ⟨rfl, rfl, rfl, rfl, rfl, rfl⟩ rfl

theorem setOutPath (s : State) (path : List OutReq) : Quiet s (s.setOutPath path) :=
  setEngine s ⟨rfl, rfl, rfl, rfl, rfl, rfl⟩ rfl

theorem setNoticePath (s : State) (path : List NoticeReq) : Quiet s (s.setNoticePath path) :=
  setEngine s ⟨rfl, rfl, rfl, rfl, rfl, rfl⟩ rfl

theorem pass (s : State) (p : Port) : Quiet s (s.pass p) :=
  (setPort s p _).trans (setEngine _ ⟨rfl, rfl, rfl, rfl, rfl, rfl⟩ rfl)

theorem complete (s : State) (p : Port) (r : Response) : Quiet s (s.complete p r) := setPort s p _

theorem reply (s : State) (dest : Option Port) (r : Response) : Quiet s (s.reply dest r) := by
  cases dest with
  | none => exact refl s
  | some p => exact complete s p r

theorem finish (p : Port) (x : State × Option Response) : Quiet x.1 (finish p x) := by
  obtain ⟨t, r⟩ := x
  cases r with
  | none => exact refl t
  | some r => exact complete t p r

theorem setLine {l : Line} {x : LineState} (hconfig : x.config = (s.line l).config)
    (hreport : x.report = (s.line l).report) : Quiet s (s.setLine l x) := by
  refine of_lines rfl rfl fun m => ?_
  rw [State.line_setLine]
  split
  · next h => exact h ▸ ⟨hconfig, hreport⟩
  · exact ⟨rfl, rfl⟩

/-- A sample leaves a line's configuration and its report (R135). -/
theorem sampleLine (x : LineState) (pin : Bool) (now : Time) :
    (sampleLine x pin now).config = x.config ∧ (sampleLine x pin now).report = x.report := by
  unfold Machine.sampleLine
  split
  · dsimp only
    split
    · exact ⟨rfl, rfl⟩
    · split <;> exact ⟨rfl, rfl⟩
  · exact ⟨rfl, rfl⟩

theorem linePeriod (s : State) : Quiet s s.linePeriod := by
  refine of_lines rfl rfl fun l => ?_
  simp only [State.line, State.linePeriod, LineUnit.period]
  split
  · exact ⟨rfl, rfl⟩
  · simpa using sampleLine _ _ _

theorem refclk (s : State) : Quiet s s.refclk :=
  have htime : Quiet s s.timePeriod := of_engine rfl rfl rfl
  htime.trans (linePeriod s.timePeriod)

theorem refclks (n : Nat) (s : State) : Quiet s (s.refclks n) := by
  induction n with
  | zero => exact refl s
  | succ n ih => rw [State.refclks_succ]; exact ih.trans (refclk _)

end Quiet

/-! ### What the engine does at a host's command and at an expiry -/

/-- An act of the engine: the commands that define a watch, those that run it, a member's visit by a sweep, and an
expiry, each under the checks it has passed. -/
inductive EngineAct (c : Ctx) (e : Engine) : Engine → Prop
  | none : EngineAct c e e
  | created (p : Port) (tag : BitVec 16) (i : Idx) : tag ≠ 0 → (∀ j, (tag, j) ∉ e.tags) → (e.watch i).state = .free →
    EngineAct c e { e with
      table := e.table.setWatch i { Watch.free with state := .draft, tag := some tag, owner := some p }
      tags := e.tags ++ [(tag, i)] }
  | stepAdded (i : Idx) (d : StepDesc) : (e.watch i).state = .draft → (e.watch i).steps.length < 6 → d.InRange →
    e.freeSlots ≠ 0 → EngineAct c e
      { e.modify i (fun w => { w with steps := w.steps ++ [d] }) with freeSlots := e.freeSlots - 1 }
  | stepDropped (i : Idx) : (e.watch i).state = .draft → (e.watch i).steps ≠ [] → EngineAct c e
      { e.modify i (fun w => { w with steps := w.steps.dropLast }) with freeSlots := e.freeSlots + 1 }
  | metActionsSet (i : Idx) (acts : List Action) : (e.watch i).state = .draft → acts.length ≤ 4 →
    EngineAct c e (e.modify i fun w => { w with metActions := acts })
  | failActionsSet (i : Idx) (acts : List Action) : (e.watch i).state = .draft → acts.length ≤ 4 →
    EngineAct c e (e.modify i fun w => { w with failActions := acts })
  | optionsSet (i : Idx) (r : Repeat) (g : Option Group) (t : Route) : (e.watch i).state = .draft →
    EngineAct c e (e.modify i fun w => { w with rep := r, group := g, route := t })
  | sealed (i : Idx) : (e.watch i).state = .draft → examine e.table i = .none →
    EngineAct c e (e.modify i fun w => { w with state := .idle })
  | reopened (i : Idx) : (e.watch i).state = .idle → EngineAct c e (e.modify i fun w => { w with state := .draft })
  | acked (i : Idx) : (e.watch i).state = .concluded → EngineAct c e (e.modify i fun w => { w with state := .idle })
  | retired (i : Idx) : (e.watch i).live = false → EngineAct c e (e.freeWatch i)
  | cleared (i : Idx) : EngineAct c e (clearMember e i)
  | armed (i : Idx) : (e.watch i).state = .idle → linesEnabled c.view (e.watch i) = true →
    EngineAct c e (e.withTable (armWatch (concluder c) c e.table i c.now))
  | held (i : Idx) : (e.watch i).runs = true → EngineAct c e (e.withTable (holdWatch e.table i))
  | released (i : Idx) : (e.watch i).state = .held →
    EngineAct c e (e.withTable (releaseWatch (concluder c) c e.table i))
  | cancelled (i : Idx) : (e.watch i).live = true →
    EngineAct c e (e.withTable (concluder c e.table i .cancelled .host c.now))
  | expired (d : Deadline) (rest : List Deadline) : e.table.deadlines = d :: rest →
    EngineAct c e (e.withTable (expire c { e.table with deadlines := rest } d))

namespace EngineAct

variable {c : Ctx} {e e' : Engine} {p : Port} {index : Byte}

theorem view (h : EngineAct c e e') : e'.view = e.view := by
  cases h <;> rfl

theorem createAt (p : Port) (tag : BitVec 16) (e : Engine) : EngineAct c e (createAt p tag e).1 := by
  unfold Machine.createAt
  split
  · exact .none
  · next htag =>
    split
    · exact .none
    · next hused =>
      split
      · exact .none
      · next i hi => exact .created p tag i htag (by simpa using hused) ((Table.lowestFree_eq_some _ i).1 hi).1

/-- A command on a watch does nothing, or its own act on a watch in a state it is taken from. -/
theorem onWatch {mutating : Bool} {takenFrom : WState → Bool} {k : Idx → Engine × Response}
    (h : ∀ i, takenFrom (e.watch i).state = true → EngineAct c e (k i).1) :
    EngineAct c e (onWatch e p index mutating takenFrom k).1 := by
  rcases onWatch_cases e p index mutating takenFrom k with ⟨st, -, -, heq⟩ | ⟨i, -, -, -, htaken, heq⟩ <;> rw [heq]
  · exact .none
  · exact h i htaken

theorem addStepAt (desc : List Byte) : EngineAct c e (addStepAt p index desc e).1 := by
  refine onWatch fun i hdraft => ?_
  dsimp only
  split
  · exact .none
  · next hlen =>
    split
    · exact .none
    · next d hread =>
      split
      · exact .none
      · next hfree =>
        exact .stepAdded i d (by simpa [isDraft] using hdraft) (Nat.lt_of_not_le hlen)
          ((readStep_iff_bytes desc d).1 hread).1 hfree

theorem dropStepAt : EngineAct c e (dropStepAt p index e).1 := by
  refine onWatch fun i hdraft => ?_
  dsimp only
  split
  · exact .none
  · next hne => exact .stepDropped i (by simpa [isDraft] using hdraft) fun hnil => hne (by simp [hnil])

/-- Actions read are as many as counted, or fewer. -/
theorem readActions_length {n : Nat} {acts : List (Byte × Byte)} {list : List Action}
    (h : readActions n acts = some list) : list.length ≤ n := by
  have hlen := congrArg List.length ((readActions_eq_some n acts list).1 h)
  simp only [List.length_map, List.length_take] at hlen
  omega

theorem setActionsAt (side count : Byte) (acts : List (Byte × Byte)) :
    EngineAct c e (setActionsAt p index side count acts e).1 := by
  refine onWatch fun i hdraft => ?_
  have hdraft : (e.watch i).state = .draft := by simpa [isDraft] using hdraft
  split
  · exact .none
  · split
    · exact .none
    · next hcount =>
      split
      · exact .none
      · next list hread =>
        have hlen : list.length ≤ 4 := (readActions_length hread).trans (Nat.le_of_not_lt hcount)
        by_cases hside : side = 1
        · simp only [if_pos hside]
          exact .metActionsSet i list hdraft hlen
        · simp only [if_neg hside]
          exact .failActionsSet i list hdraft hlen

theorem setOptionsAt (rep group route : Byte) : EngineAct c e (setOptionsAt p index rep group route e).1 := by
  refine onWatch fun i hdraft => ?_
  split
  · exact .optionsSet i _ _ _ (by simpa [isDraft] using hdraft)
  · exact .none

theorem sealAt : EngineAct c e (sealAt p index e).1 := by
  refine onWatch fun i hdraft => ?_
  split
  · exact .none
  · next hsound => exact .sealed i (by simpa [isDraft] using hdraft) hsound

theorem reopenAt : EngineAct c e (reopenAt p index e).1 :=
  onWatch fun i hidle => .reopened i (by simpa using hidle)

theorem retireAt : EngineAct c e (retireAt p index e).1 := by
  refine onWatch fun i htaken => ?_
  split
  · exact .none
  · refine .retired i ?_
    cases hstate : (e.watch i).state <;> simp_all [Watch.live, Watch.runs]

theorem readWatchAt (part k : Byte) : EngineAct c e (readWatchAt p index part k e).1 := by
  refine onWatch fun i _ => ?_
  split <;> exact .none

theorem armAt : EngineAct c e (armAt p index c e).1 := by
  refine onWatch fun i hidle => ?_
  split
  · next hlines => exact .armed i (by simpa using hidle) hlines
  · exact .none

theorem cancelAt : EngineAct c e (cancelAt p index c e).1 :=
  onWatch fun i hlive => .cancelled i (by simpa [Watch.live, Watch.runs] using hlive)

theorem holdAt : EngineAct c e (holdAt p index e).1 :=
  onWatch fun i hruns => .held i (by simpa [Watch.runs] using hruns)

theorem releaseAt : EngineAct c e (releaseAt p index c e).1 :=
  onWatch fun i hheld => .released i (by simpa using hheld)

theorem ackAt : EngineAct c e (ackAt p index e).1 :=
  onWatch fun i hstate => .acked i (by simpa using hstate)

/-- A sweep's visit is the act of the single command, where it affects its member (R111 to R114). -/
theorem visit (kind : SweepKind) (c : Ctx) (e : Engine) (i : Idx) : EngineAct c e (visit kind c e i).1 := by
  by_cases h : kind.affects c (e.watch i) = true
  · rw [visit_of_affects h]
    cases kind with
    | arm =>
      obtain ⟨hidle, hlines⟩ := (Bool.and_eq_true _ _).mp h
      exact .armed i (of_decide_eq_true hidle) hlines
    | hold => exact .held i h
    | release => exact .released i (of_decide_eq_true h)
    | cancel => exact .cancelled i h
    | clear => exact .cleared i
  · rw [visit_of_not_affects (by simpa using h)]
    exact .none

end EngineAct

/-! ### What a happening does -/

/-- An act of the part on the engine and the lines' configurations. -/
inductive Act (s : State) : State → Prop
  | engine {e : Engine} : EngineAct s.ctx s.engine e → Act s (s.setEngine e)
  | lineForwarded (p : Port) (l : Line) (cfg : LineConfig) : ¬SetLineRefused s l cfg → Act s (forwardLine p l cfg s)
  | lineApplied (pins : BitVec 24) (r : LineReq) (rest : List LineReq) : s.linePath = r :: rest →
    Act s (({ s with linePath := rest, pins := pins } : State).setLine r.line
      (applyConfig (s.line r.line) r.config (pins.getLsbD r.line.val) s.time.now r.reply))
  | reportTaken (l : Line) (r : LevelReport) : (s.line l).report = some r →
    Act s (takeReport (s.setLine l { s.line l with report := none }) l r)
  | edgeTaken (l : Line) (e : Edge) : Act s (takeEdge s l e)
  | deviceReset (p : Port) : Act s (s.deviceReset p)
  | hardwareReset (t : State) : t.engine = Engine.reset → t.linePath = [] → t.lineUnit = LineUnit.reset → Act s t

/-- What a happening leaves is what one act leaves, with quiet changes before it and after it. -/
def Does (s t : State) : Prop := ∃ s' t', Quiet s s' ∧ Act s' t' ∧ Quiet t' t

namespace Does

variable {s t u : State}

theorem act (h : Act s t) : Does s t := ⟨s, t, .refl s, h, .refl t⟩

theorem after (h : Quiet s t) (k : Does t u) : Does s u := by
  obtain ⟨s', t', hs, ha, ht⟩ := k
  exact ⟨s', t', h.trans hs, ha, ht⟩

theorem before (k : Does s t) (h : Quiet t u) : Does s u := by
  obtain ⟨s', t', hs, ha, ht⟩ := k
  exact ⟨s', t', hs, ha, ht.trans h⟩

theorem engine {e : Engine} (h : EngineAct s.ctx s.engine e) : Does s (s.setEngine e) := act (.engine h)

theorem quiet (h : Quiet s t) : Does s t := (engine (s := s) .none).before ((Quiet.refl s).trans h)

end Does

/-- The outcome is a next state that one happening leaves. -/
def Happens (s : State) (o : Host.Outcome State Fault Refusal) : Prop := ∃ t, o = .next t ∧ Does s t

namespace Happens

variable {s t : State}

theorem next (h : Does s t) : Happens s (.next t) := ⟨t, rfl, h⟩

theorem quiet (h : Quiet s t) : Happens s (.next t) := next (.quiet h)

theorem same (s : State) : Happens s (.next s) := quiet (.refl s)

/-- The happening of a command that the arbiter passes, and its completion. -/
theorem passed (p : Port) {body : State → State × Option Response} (h : ∀ s, Does s (body s).1) :
    Happens s (.next (finish p (body (s.pass p)))) :=
  next (.after (.pass s p) ((h _).before (.finish p _)))

theorem atEngine (p : Port) (c : Instr) (s : State) {body : State → State × Option Response}
    (h : ∀ s, Does s (body s).1) : Happens s (atEngine p c s body) := by
  rcases atEngine_cases s p c body with ⟨-, heq⟩ | ⟨-, heq⟩ <;> rw [heq]
  · exact passed p h
  · exact same s

/-- A command of the engine that changes the engine alone, by an act in the context of its happening. -/
theorem onEngine (p : Port) (c : Instr) (s : State) {f : Engine → Engine × Response}
    (h : ∀ e, EngineAct s.ctx e (f e).1) : Happens s (Machine.atEngine p c s (onEngine f)) := by
  rcases atEngine_cases s p c (Machine.onEngine f) with ⟨-, heq⟩ | ⟨-, heq⟩ <;> rw [heq]
  · exact next (.after (.pass s p) ((Does.engine (s := s.pass p) (h _)).before (.complete _ p _)))
  · exact same s

theorem atBlock (p : Port) (c : Instr) (s : State) {body : State → State × Response}
    (h : ∀ s, Quiet s (body s).1) : Happens s (atBlock p c s body) := by
  unfold Machine.atBlock
  split
  · exact quiet ((h s).trans (.complete _ p _))
  · exact same s

theorem onBus (o : Opening) (fits : FirstByte → Bool) (s : State) {k : Port → State}
    (h : ∀ p, Quiet s (k p)) : Happens s (onBus o fits s k) := by
  rcases onBus_cases o fits s k with heq | ⟨p, -, -, heq⟩ <;> rw [heq]
  · exact same s
  · exact quiet (h p)

end Happens

/-! ### Sweeps, lines and transactions -/

theorem sweepHappening_does (p : Port) (w : Sweep) (s : State) : Does s (sweepHappening p w s).1 := by
  unfold sweepHappening
  split
  · exact .quiet (.setSweep s p _)
  · next i hmember =>
    have hvisit : Does s (s.setEngine (visit w.kind s.ctx s.engine i).1) := .engine (.visit ..)
    dsimp only
    split
    · exact hvisit.before (.setSweep _ p _)
    · exact hvisit.before ((Quiet.setSweep _ p _).trans (.setPort _ p _))

theorem stopSweep_does (p : Port) (s : State) : Does s (stopSweep p s).1 := .quiet (.setSweep s p _)

theorem startGroup_does (p : Port) (kind : SweepKind) (g : Byte) (s : State) : Does s (startGroup p kind g s).1 := by
  unfold startGroup
  split
  · exact stopSweep_does p s
  · split
    · exact sweepHappening_does ..
    · exact .quiet (.refl s)

theorem execSweepVisit_happens (p : Port) (s : State) : Happens s (execSweepVisit p s) := by
  unfold execSweepVisit
  split
  · split
    · exact .passed p (stopSweep_does p)
    · split
      · exact .passed p (sweepHappening_does p _)
      · exact .same s
  · exact .same s

theorem setLineAt_does (p : Port) (line enable polarity filter : Byte) (s : State) :
    Does s (setLineAt p line enable polarity filter s).1 := by
  cases hl : indexOf 24 line with
  | none =>
    have heq : setLineAt p line enable polarity filter s = (s, some (.refuse .badArgument)) := by
      rw [setLineAt, hl]
    exact heq ▸ .quiet (.refl s)
  | some l =>
    cases hcfg : readConfig enable polarity filter with
    | none =>
      have heq : setLineAt p line enable polarity filter s = (s, some (.refuse .badArgument)) := by
        rw [setLineAt, hl, hcfg]
      exact heq ▸ .quiet (.refl s)
    | some cfg =>
      by_cases hrefused : SetLineRefused s l cfg
      · rw [setLineAt_of_refused p s hl hcfg hrefused]
        exact .quiet (.refl s)
      · rw [setLineAt_of_not_refused p s hl hcfg hrefused]
        exact .act (.lineForwarded p l cfg hrefused)

theorem setTimebaseAt_does (p : Port) (divider : BitVec 16) (s : State) : Does s (setTimebaseAt p divider s).1 := by
  unfold setTimebaseAt
  split
  · exact .quiet (.refl s)
  · split
    · exact .quiet (.refl s)
    · exact .quiet (.of_engine rfl rfl rfl)

theorem forwardOutput_does (r : Option OutReq) (s : State) : Does s (forwardOutput r s).1 := by
  cases r with
  | none => exact .quiet (.refl s)
  | some r => exact .quiet (.setEngine s ⟨rfl, rfl, rfl, rfl, rfl, rfl⟩ rfl)

theorem onLine_quiet (line : Byte) {k : Line → State × Response} {s : State} (h : ∀ l, Quiet s (k l).1) :
    Quiet s (onLine line k s).1 := by
  unfold onLine
  split
  · exact h _
  · exact .refl s

theorem maskAt_quiet (line : Byte) (s : State) : Quiet s (maskAt line s).1 := by
  refine onLine_quiet line fun l => ?_
  dsimp only
  split
  · exact .refl s
  · exact .setLine rfl rfl

theorem unmaskAt_quiet (line : Byte) (s : State) : Quiet s (unmaskAt line s).1 := by
  refine onLine_quiet line fun l => ?_
  dsimp only
  split
  · exact .setLine rfl rfl
  · exact .refl s

theorem setSamplingAt_quiet (divider : Byte) (s : State) : Quiet s (setSamplingAt divider s).1 := by
  unfold setSamplingAt
  split
  · exact .refl s
  · exact .of_lines rfl rfl fun l => by simp [State.line]

theorem takeAction_happens (kind : OutKind) (s : State) : Happens s (takeAction kind s) := by
  unfold takeAction
  split
  · split
    · exact .quiet ((Quiet.setOutPath s _).trans (.of_engine rfl rfl rfl))
    · exact .same s
  · exact .same s

/-- A change of an output at the head of the output request path, and its completion. -/
theorem Quiet.changeOutput (s : State) (rest : List OutReq) (o : Output) (f : OutputState → OutputState) (p : Port)
    (r : Response) : Quiet s (((s.setOutPath rest).changeOutput o f).complete p r) :=
  have hchanged : Quiet (s.setOutPath rest) ((s.setOutPath rest).changeOutput o f) := of_engine rfl rfl rfl
  ((setOutPath s rest).trans hchanged).trans (complete _ p r)

theorem takeNoticeAt_quiet (p : Port) (s : State) : Quiet s (takeNoticeAt p s).1 := by
  unfold takeNoticeAt
  split <;> exact .of_engine rfl rfl rfl

theorem ackNoticeAt_quiet (p : Port) (index : Byte) (s : State) : Quiet s (ackNoticeAt p index s).1 := by
  unfold ackNoticeAt
  split <;> exact .of_engine rfl rfl rfl

theorem setNoticeEnableAt_quiet (p : Port) (enable : Byte) (s : State) : Quiet s (setNoticeEnableAt p enable s).1 := by
  unfold setNoticeEnableAt
  split <;> exact .of_engine rfl rfl rfl

theorem State.beginAbort_quiet (p : Port) (s : State) : Quiet s (s.beginAbort p) := by
  unfold State.beginAbort
  dsimp only
  split
  · exact .refl s
  · exact .refl s
  · exact .setPort s p _
  · split
    · exact .refl s
    · split
      · exact (Quiet.setPort s p _).trans (.setSweep _ p _)
      · exact .setPort s p _

section Transactions

variable {p : Port} {act : State → State} (hact : ∀ s, Quiet s (act s))

include hact

theorem State.headByte_quiet (s : State) (o : Opening) (part : HeadPart) : Quiet s (s.headByte p o act part) := by
  have code (s : State) : Quiet s (s.codeByte p act) := by
    unfold State.codeByte
    dsimp only
    split
    · exact (Quiet.setPort s p _).trans (hact _)
    · exact .refl s
  cases part with
  | whole =>
    unfold State.headByte
    dsimp only
    split
    · exact ((Quiet.of_onlyPort (s.openBus_only p o)).trans (code _)).trans (.of_onlyPort (State.shiftStatus_only _ p))
    · exact .refl s
  | opened => exact .of_onlyPort (s.openBus_only p o)
  | code => exact code s
  | shifted => exact .of_onlyPort (s.shiftStatus_only p)

theorem State.transact_quiet (s : State) (o : Opening) (part : TransactionPart) :
    Quiet s (s.transact p o act part) := by
  cases part with
  | whole n =>
    unfold State.transact
    dsimp only
    split
    · exact ((State.headByte_quiet hact s o .whole).trans (.of_onlyPort (State.clockBytes_only _ p n))).trans
        (.of_onlyPort (State.stopBus_only _ p))
    · exact .refl s
  | head h => exact State.headByte_quiet hact s o h
  | clock n => exact .of_onlyPort (s.clockBytes_only p n)
  | stop => exact .of_onlyPort (s.stopBus_only p)

end Transactions

theorem execFrameReceived_only (p : Port) (bytes : List Byte) (s : State) :
    ∃ t, execFrameReceived p bytes s = .next t ∧ OnlyPort p s t := by
  have hend : OnlyPort p s (s.endFrame p bytes.length) := .set p s _
  unfold execFrameReceived
  dsimp only
  split
  · split
    · split
      · exact ⟨_, rfl, hend.trans (.set ..)⟩
      · exact ⟨_, rfl, hend.trans (.set ..)⟩
      · exact ⟨_, rfl, hend.trans (.set ..)⟩
      · exact ⟨_, rfl, hend.trans (State.takeCommand_only ..)⟩
    · exact ⟨_, rfl, hend⟩
  · exact ⟨_, rfl, .refl p s⟩

/-! ### Every command -/

theorem exec_happens (i : Instr) (s : State) : Happens s (exec i s) := by
  cases i with
  -- The engine's commands that change the engine alone.
  | create p tag => exact .onEngine _ _ _ (.createAt p tag)
  | addStep p index desc => exact .onEngine _ _ _ fun _ => .addStepAt desc
  | dropStep p index => exact .onEngine _ _ _ fun _ => .dropStepAt
  | setActions p index side count acts => exact .onEngine _ _ _ fun _ => .setActionsAt side count acts
  | setOptions p index rep group route => exact .onEngine _ _ _ fun _ => .setOptionsAt rep group route
  | reopen p index => exact .onEngine _ _ _ fun _ => .reopenAt
  | retire p index => exact .onEngine _ _ _ fun _ => .retireAt
  | find p | scan p | readPool p => exact .onEngine _ _ _ fun _ => .none
  | readWatch p index part k => exact .onEngine _ _ _ fun _ => .readWatchAt part k
  | arm p index => exact .onEngine _ _ _ fun _ => .armAt
  | cancel p index => exact .onEngine _ _ _ fun _ => .cancelAt
  | hold p index => exact .onEngine _ _ _ fun _ => .holdAt
  | release p index => exact .onEngine _ _ _ fun _ => .releaseAt
  | ack p index => exact .onEngine _ _ _ fun _ => .ackAt
  -- The engine's other commands, and its happenings.
  | armGroup p group | holdGroup p group | releaseGroup p group | cancelGroup p group =>
    exact .atEngine _ _ _ (startGroup_does p _ group)
  | clearOwned p =>
    simp only [exec, execClearOwned]
    refine .atEngine _ _ _ fun s => ?_
    split
    · exact stopSweep_does p s
    · exact sweepHappening_does p _ s
  | sweepVisit p => exact execSweepVisit_happens p s
  | sweepStop p =>
    simp only [exec, execSweepStop]
    split
    · exact .passed p (stopSweep_does p)
    · exact .same s
  | setTimebase p divider => exact .atEngine _ _ _ (setTimebaseAt_does p divider)
  | setLine p line enable polarity filter => exact .atEngine _ _ _ (setLineAt_does p line enable polarity filter)
  | setOutput p | forceOutput p | releaseOutput p | readOutput p => exact .atEngine _ _ _ (forwardOutput_does _)
  | setLineApply pins =>
    simp only [exec, execSetLineApply]
    split
    · next hpath => exact .next (.act (.lineApplied pins _ _ hpath))
    · exact .same s
  | levelReport l =>
    simp only [exec, execLevelReport]
    split
    · next r hreport => exact .next ((Does.act (.reportTaken l r hreport)).before (.reply _ r.reply _))
    · exact .same s
  | edgeTaken l =>
    simp only [exec, execEdgeTaken]
    split
    · next e rest _ _ =>
      have htaken : Quiet s (s.setLine l { s.line l with queue := rest }) := .setLine rfl rfl
      exact .next (.after htaken (.act (.edgeTaken l e)))
    · exact .same s
  | deadlineExpiry =>
    simp only [exec, execDeadlineExpiry]
    split
    · next d rest hdeadlines =>
      split
      · exact .next (.engine (.expired d rest hdeadlines))
      · exact .same s
    · exact .same s
  -- The Timebase and the Line Unit.
  | timebaseDividerApply =>
    simp only [exec, execTimebaseDividerApply]
    split
    · next r rest _ =>
      have htaken : Quiet s { s with
        dividerPath := rest
        time := { s.time with divider := r.divider, partialCount := 0 } } := .of_engine rfl rfl rfl
      exact .quiet (htaken.trans (.reply _ r.reply _))
    · exact .same s
  | timeHold p | timeRun p | readTime p | readLevels p | peekNotices p =>
    simp only [exec, execTimeHold, execTimeRun, execReadTime, execReadLevels, execPeekNotices]
    exact .atBlock _ _ _ fun s => .of_engine rfl rfl rfl
  | tick =>
    simp only [exec, execTick]
    split
    · exact .quiet ((Quiet.refclks _ s).trans (.refclk _))
    · exact .same s
  | sample pins =>
    have hpins : Quiet s { s with pins := pins } := .of_engine rfl rfl rfl
    exact .quiet (((hpins.trans (.refclks _ _)).trans (.linePeriod _)).trans (.of_engine rfl rfl rfl))
  | maskLine p line => exact .atBlock _ _ _ (maskAt_quiet line)
  | unmaskLine p line => exact .atBlock _ _ _ (unmaskAt_quiet line)
  | readLine p line =>
    simp only [exec, execReadLine]
    exact .atBlock _ _ _ fun s => onLine_quiet line fun _ => .refl s
  | setSampling p divider => exact .atBlock _ _ _ (setSamplingAt_quiet divider)
  -- The Output Unit and the Notice Unit.
  | outSet | outClear | outRelease => exact takeAction_happens _ s
  | outputPurge =>
    simp only [exec, execOutputPurge]
    split
    · exact .quiet ((Quiet.setOutPath s _).trans (.of_engine rfl rfl rfl))
    · exact .same s
  | pulseEnd output =>
    simp only [exec, execPulseEnd]
    split
    · exact .quiet (.of_engine rfl rfl rfl)
    · exact .same s
  | setOutputApply | forceOutputApply | releaseOutputApply =>
    simp only [exec, execSetOutputApply, execForceOutputApply, execReleaseOutputApply]
    split
    · exact .quiet (.changeOutput ..)
    · exact .same s
  | readOutputApply =>
    simp only [exec, execReadOutputApply]
    split
    · exact .quiet ((Quiet.setOutPath s _).trans (.complete _ _ _))
    · exact .same s
  | noticePost | noticePurge =>
    simp only [exec, execNoticePost, execNoticePurge]
    split
    · exact .quiet ((Quiet.setNoticePath s _).trans (.of_engine rfl rfl rfl))
    · exact .same s
  | takeNotice p => exact .atBlock _ _ _ (takeNoticeAt_quiet p)
  | ackNotice p index => exact .atBlock _ _ _ (ackNoticeAt_quiet p index)
  | setNoticeEnable p enable => exact .atBlock _ _ _ (setNoticeEnableAt_quiet p enable)
  -- The ports and the resets.
  | identify p =>
    simp only [exec, execIdentify]
    split
    · exact .quiet (.of_onlyPort (OnlyPort.trans (.set p s _) (State.takeCommand_only ..)))
    · exact .same s
  | deviceReset p =>
    simp only [exec, execDeviceReset]
    exact .atEngine _ _ _ fun s => .act (.deviceReset p)
  | hardwareReset addr => exact .next (.act (.hardwareReset _ rfl rfl rfl))
  | command t =>
    simp only [exec, execCommand]
    exact .onBus _ _ _ fun p => State.headByte_quiet (fun s => .of_onlyPort (State.beginFrame_only p s)) ..
  | frameReceived p bytes =>
    obtain ⟨t, ht, honly⟩ := execFrameReceived_only p bytes s
    exact ⟨t, ht, .quiet (.of_onlyPort honly)⟩
  | fetch p o part =>
    simp only [exec, execFetch]
    exact .onBus _ _ _ fun q => State.transact_quiet (fun s => .of_onlyPort (State.beginFetch_only q s)) ..
  | abort t =>
    simp only [exec, execAbort]
    exact .onBus _ _ _ fun p => State.transact_quiet (State.beginAbort_quiet p) ..
  | status o part =>
    simp only [exec, execStatus]
    exact .onBus _ _ _ fun p => State.transact_quiet (fun s => .refl s) ..
  | unknownTransferCode o part =>
    simp only [exec, execUnknownTransferCode]
    exact .onBus _ _ _ fun p => State.transact_quiet (fun s => .setPort s p _) ..
  | _ =>
    -- What is left is SEAL, whose constructor bears a word of Lean's own.
    exact .onEngine _ _ _ fun _ => .sealAt

/-- All a step can do: one happening, or a REFCLK period, which is quiet (log 3). -/
theorem does_of_step {s t : State} (h : step s = .next t) : Does s t := by
  unfold step at h
  split at h
  · next c rest hpending =>
    obtain ⟨u, hu, hdoes⟩ := exec_happens c { s with pending := rest }
    obtain rfl := Host.Outcome.next.inj (h.symm.trans hu)
    have hqueue : Quiet s { s with pending := rest } := .of_engine rfl rfl rfl
    exact .after hqueue hdoes
  · obtain rfl := Host.Outcome.next.inj h
    exact .quiet (.refclk s)

/-! ### Invariants of the engine -/

/-- What every step keeps of the engine, if it holds of a reset engine and is kept by what is quiet, by the acts of the
engine and by an edge served. -/
structure EngineRules (I : Engine → Prop) : Prop where
  congr : ∀ {e e'}, SameRecords e e' → I e → I e'
  act : ∀ {c e e'}, EngineAct c e e' → I e → I e'
  serve : ∀ {e} c l x, I e → I (e.withTable (serveLine c e.table l x))
  reset : I Engine.reset

namespace EngineRules

variable {I : Engine → Prop} (h : EngineRules I)

include h

theorem quiet {s t : State} (hq : Quiet s t) (hs : I s.engine) : I t.engine := h.congr hq.records hs

theorem of_act {s t : State} (ha : Act s t) (hs : I s.engine) : I t.engine := by
  cases ha with
  | engine ha => exact h.act ha hs
  | lineForwarded p l cfg =>
    refine h.congr ?_ hs
    exact ⟨rfl, rfl, rfl, rfl, rfl, rfl⟩
  | lineApplied => exact hs
  | reportTaken l r =>
    rw [takeReport_eq]
    cases r.lost with
    | true =>
      refine h.congr ?_ (h.serve (s.setView l { s.view l with enabled := r.enable, delivered := r.level }).ctx
        l { dir := .rise, stamp := r.stamp, lost := true } hs)
      exact ⟨rfl, rfl, rfl, rfl, rfl, rfl⟩
    | false =>
      refine h.congr ?_ hs
      exact ⟨rfl, rfl, rfl, rfl, rfl, rfl⟩
  | edgeTaken l x =>
    unfold takeEdge
    split
    · refine h.congr ?_ (h.serve (s.setView l { s.view l with delivered := x.dir.level }).ctx l x hs)
      exact ⟨rfl, rfl, rfl, rfl, rfl, rfl⟩
    · exact hs
  | deviceReset p =>
    refine h.congr ?_ h.reset
    exact ⟨rfl, rfl, rfl, rfl, rfl, rfl⟩
  | hardwareReset t he => exact he ▸ h.reset

/-- Every step keeps it. -/
theorem step {s t : State} (hs : I s.engine) (hstep : step s = .next t) : I t.engine := by
  obtain ⟨s', t', hbefore, hact, hafter⟩ := does_of_step hstep
  exact h.quiet hafter (h.of_act hact (h.quiet hbefore hs))

end EngineRules

end Sys2Proof.Machine

/-! PROOFS. Every step keeps the step pool in balance (O55). -/

namespace Sys2Proof.Machine

open Sys2Proof

/-! ### The steps of all watches -/

/-- The number of steps that all watches hold. -/
def Engine.stepCount (e : Engine) : Nat := ∑ i : Idx, (e.watch i).steps.length

theorem Engine.stepCount_eq (e : Engine) :
    (allWatches.map fun i => (e.watch i).steps.length).sum = e.stepCount :=
  (Fin.sum_univ_def _).symm

/-- With one record replaced, the number of steps changes as those of that record do. -/
theorem Engine.stepCount_replaced {e e' : Engine} {i : Idx} {w : Watch}
    (h : ∀ j, e'.watch j = if j = i then w else e.watch j) :
    e'.stepCount + (e.watch i).steps.length = e.stepCount + w.steps.length := by
  have hothers : ∑ j ∈ Finset.univ.erase i, (e'.watch j).steps.length =
      ∑ j ∈ Finset.univ.erase i, (e.watch j).steps.length :=
    Finset.sum_congr rfl fun j hj => by rw [h, if_neg (Finset.ne_of_mem_erase hj)]
  have hnew := Finset.add_sum_erase Finset.univ (fun j => (e'.watch j).steps.length) (Finset.mem_univ i)
  have hold := Finset.add_sum_erase Finset.univ (fun j => (e.watch j).steps.length) (Finset.mem_univ i)
  have hi : (e'.watch i).steps.length = w.steps.length := by rw [h, if_pos rfl]
  simp only [hothers, hi] at hnew
  unfold Engine.stepCount
  omega

namespace PoolInv

variable {e e' : Engine}

/-- The steps leave the pool and return to it with the record that holds them (R26). -/
theorem replaced (h : PoolInv e) {i : Idx} {w : Watch} (hw : ∀ j, e'.watch j = if j = i then w else e.watch j)
    (hslots : e'.freeSlots + w.steps.length = e.freeSlots + (e.watch i).steps.length) (hempty : FreeEmpty w) :
    PoolInv e' where
  balance := by
    have hcount := Engine.stepCount_replaced hw
    have hbalance := h.balance
    rw [Engine.stepCount_eq] at hbalance ⊢
    omega
  freeEmpty j hfree := by
    rw [hw] at hfree ⊢
    by_cases hj : j = i
    · rw [if_pos hj] at hfree ⊢
      exact hempty hfree
    · rw [if_neg hj] at hfree ⊢
      exact h.freeEmpty j hfree

/-- The record of a watch in use, its steps as many as before. -/
theorem modify (h : PoolInv e) {i : Idx} {f : Watch → Watch} (hsteps : (f (e.watch i)).steps = (e.watch i).steps)
    (hstate : (f (e.watch i)).state ≠ .free) : PoolInv (e.modify i f) :=
  h.replaced (Table.watch_modify e.table i · f) (congrArg (fun l => e.freeSlots + l.length) hsteps)
    (.of_not_free hstate)

/-- A cascade keeps every definition and makes no watch FREE. -/
theorem cascade (h : PoolInv e) {T : Table} (hsame : ∀ j, SameDefinition (e.watch j) (T.watch j))
    (hempty : ∀ j, FreeEmpty (T.watch j)) : PoolInv (e.withTable T) where
  balance := by
    have hsteps (j : Idx) : ((e.withTable T).watch j).steps.length = (e.watch j).steps.length :=
      congrArg List.length (hsame j).steps
    simpa only [hsteps, Engine.withTable_freeSlots] using h.balance
  freeEmpty := hempty

theorem of_sameRecords (h : PoolInv e) (hsame : SameRecords e e') : PoolInv e' where
  balance := by simpa only [hsame.watch, hsame.freeSlots] using h.balance
  freeEmpty i := by simpa only [hsame.watch] using h.freeEmpty i

/-- Every act of the engine keeps the pool in balance. -/
theorem act {c : Ctx} (ha : EngineAct c e e') (h : PoolInv e) : PoolInv e' := by
  have hrules := (freeEmpty_rules c).cascade
  cases ha with
  | none => exact h
  | created p tag i htag hnew hfree =>
    refine h.replaced (Table.watch_modify e.table i · fun _ => _) ?_ (.of_not_free nofun)
    exact congrArg (fun l : List StepDesc => e.freeSlots + l.length) (h.freeEmpty i hfree).symm
  | stepAdded i d hdraft hlen hrange hslots =>
    refine h.replaced (Table.watch_modify e.table i · fun w => { w with steps := w.steps ++ [d] }) ?_
      (.of_not_free (by simp [Engine.watch] at hdraft ⊢; simp [hdraft]))
    simp only [Engine.watch, List.length_append, List.length_singleton]
    omega
  | stepDropped i hdraft hne =>
    refine h.replaced (Table.watch_modify e.table i · fun w => { w with steps := w.steps.dropLast }) ?_
      (.of_not_free (by simp [Engine.watch] at hdraft ⊢; simp [hdraft]))
    have hpos := List.length_pos_iff.2 hne
    simp only [Engine.watch, List.length_dropLast] at hpos ⊢
    omega
  | metActionsSet i acts hdraft => exact h.modify rfl (by simp [hdraft])
  | failActionsSet i acts hdraft => exact h.modify rfl (by simp [hdraft])
  | optionsSet i r g t hdraft => exact h.modify rfl (by simp [hdraft])
  | sealed i => exact h.modify rfl nofun
  | reopened i => exact h.modify rfl nofun
  | acked i => exact h.modify rfl nofun
  | retired i => exact h.replaced (Table.watch_modify e.table i · fun _ => Watch.free) rfl fun _ => rfl
  | cleared i =>
    refine h.replaced (clearMember_watch e i) ?_ fun _ => rfl
    exact congrArg (fun w : Watch => e.freeSlots + w.steps.length) (watch_endStep e.table i i)
  | armed i hidle hlines =>
    exact h.cascade (cascade_sameDefinition.armWatch (cascade_sameDefinition.concluder c) c e.table i c.now)
      (hrules.armWatch hrules.concluder c.now h.freeEmpty hidle hlines)
  | held i hruns => exact h.cascade (cascade_sameDefinition.holdWatch e.table i) (hrules.held h.freeEmpty hruns)
  | released i hheld =>
    exact h.cascade (cascade_sameDefinition.releaseWatch (cascade_sameDefinition.concluder c) c e.table i)
      (hrules.releaseWatch hrules.concluder h.freeEmpty hheld)
  | cancelled i hlive =>
    exact h.cascade (cascade_sameDefinition.concluder c e.table i .cancelled .host c.now)
      (hrules.concluder _ (hrules.live h.freeEmpty hlive) ⟨by decide, .inl rfl⟩)
  | expired d rest hdeadlines =>
    exact h.cascade (cascade_sameDefinition.expire c { e.table with deadlines := rest } d)
      (hrules.expire (.of_all h.freeEmpty (h.freeEmpty d.watch)))

end PoolInv

theorem poolInv_rules : EngineRules PoolInv where
  congr hsame h := h.of_sameRecords hsame
  act ha h := h.act ha
  serve {e} c l x h :=
    h.cascade (cascade_sameDefinition.serveLine c e.table l x) ((freeEmpty_rules c).cascade.serveLine l x h.freeEmpty)
  reset := ⟨by decide, by decide⟩

/-- Settles O55: each act of the engine moves slots with the steps it adds or frees, and a cascade moves none. -/
theorem stepKeepsPool : Obligations.StepKeepsPool := fun _ _ h hstep => poolInv_rules.step h hstep

end Sys2Proof.Machine

/-! PROOFS. Every step keeps the engine's lists to live watches, each once, for their current steps (O56). -/

namespace Sys2Proof.Machine

open Sys2Proof

/-! ### What the lists ask of a record and of a watch -/

/-- A definition outside DRAFT names each line of a step once (R37). -/
def Watch.SealedLines (w : Watch) : Prop :=
  w.state ≠ .free → w.state ≠ .draft → ∀ d ∈ w.steps, d.lines.Nodup

theorem Watch.SealedLines.of_live {w w' : Watch} (h : w.SealedLines) (hlive : w.live = true)
    (hsteps : w'.steps = w.steps) : w'.SealedLines :=
  fun _ _ => hsteps ▸ h (Watch.not_free_of_live hlive) (Watch.not_draft_of_live hlive)

theorem Watch.SealedLines.of_draft {w : Watch} (h : w.state = .draft) : w.SealedLines :=
  fun _ hdraft => absurd h hdraft

theorem Watch.live_eq_false {w : Watch} {st : WState} (h : w.state = st) (hst : st ∉ [.armed, .running, .held]) :
    w.live = false :=
  Bool.eq_false_iff.2 fun hlive => hst (h ▸ Watch.live_iff.1 hlive)

theorem concludes_cancelled : Concludes .cancelled .host := ⟨by decide, .inl rfl⟩

/-- A watch stands in no list of the engine. -/
structure Absent (T : Table) (i : Idx) : Prop where
  lines : ∀ l, ∀ x ∈ T.listenersOf l, x.watch ≠ i
  followers : ∀ t, i ∉ T.followersOf t
  deadlines : ∀ d ∈ T.deadlines, d.watch ≠ i

/-- A watch is as live as before, on the same step. -/
def Watch.Stays (w w' : Watch) : Prop := w.live = true → w'.live = true ∧ w'.step = w.step

theorem Watch.Stays.followTarget {w w' : Watch} (h : w'.step = w.step) : w'.followTarget = w.followTarget := by
  rw [Watch.followTarget, h, Watch.followTarget]

namespace ListsInv

variable {T T' : Table} {i : Idx}

/-- Lists that lose entries, over records that stay but for watches that stand in none. -/
theorem shrink (h : ListsInv T) (hlines : ∀ l, (T'.listenersOf l).Sublist (T.listenersOf l))
    (hfollowers : ∀ t, (T'.followersOf t).Sublist (T.followersOf t)) (hdeadlines : T'.deadlines.Sublist T.deadlines)
    (hstays : ∀ j, Absent T' j ∨ (T.watch j).Stays (T'.watch j))
    (hruns : ∀ d ∈ T'.deadlines, (T'.watch d.watch).runs = true) (hsealed : ∀ j, (T'.watch j).SealedLines) :
    ListsInv T' where
  deadlinesRun := hruns
  deadlinesOnce := h.deadlinesOnce.sublist (hdeadlines.map _)
  listenersFit l x hx := by
    obtain ⟨hlive, d, hstep, hrole⟩ := h.listenersFit l x ((hlines l).subset hx)
    rcases hstays x.watch with habsent | hstays
    · exact absurd rfl (habsent.lines l x hx)
    · obtain ⟨hlive', hstep'⟩ := hstays hlive
      exact ⟨hlive', d, hstep'.trans hstep, hrole⟩
  listenersOnce l := (h.listenersOnce l).sublist ((hlines l).map _)
  followersFit t f hf := by
    obtain ⟨hlive, htarget⟩ := h.followersFit t f ((hfollowers t).subset hf)
    rcases hstays f with habsent | hstays
    · exact absurd hf (habsent.followers t)
    · obtain ⟨hlive', hstep'⟩ := hstays hlive
      exact ⟨hlive', (Watch.Stays.followTarget hstep').trans htarget⟩
  followersOnce t := (h.followersOnce t).sublist (hfollowers t)
  sealedLines := hsealed

/-- Lists that lose entries, over the same records. -/
theorem drop (h : ListsInv T) (hwatches : ∀ j, T'.watch j = T.watch j)
    (hlines : ∀ l, (T'.listenersOf l).Sublist (T.listenersOf l))
    (hfollowers : ∀ t, (T'.followersOf t).Sublist (T.followersOf t))
    (hdeadlines : T'.deadlines.Sublist T.deadlines) : ListsInv T' :=
  h.shrink hlines hfollowers hdeadlines (fun j => .inr fun hlive => by rw [hwatches]; exact ⟨hlive, rfl⟩)
    (fun d hd => hwatches d.watch ▸ h.deadlinesRun d (hdeadlines.subset hd)) fun j => hwatches j ▸ h.sealedLines j

/-- A watch that is not live stands in no list (R5). -/
theorem absent (h : ListsInv T) (hlive : (T.watch i).live = false) : Absent T i where
  lines l x hx hi := by
    have := (h.listenersFit l x hx).1
    simp [hi, hlive] at this
  followers t hi := by
    have := (h.followersFit t i hi).1
    simp [hlive] at this
  deadlines d hd hi := by
    have := Watch.live_of_runs (h.deadlinesRun d hd)
    simp [hi, hlive] at this

/-- The record of one watch changes, and no deadline is held by it unless it runs. -/
theorem modify (h : ListsInv T) {f : Watch → Watch} (hstays : Absent T i ∨ (T.watch i).Stays (f (T.watch i)))
    (hruns : ∀ d ∈ T.deadlines, d.watch = i → (f (T.watch i)).runs = true)
    (hsealed : (f (T.watch i)).SealedLines) : ListsInv (T.modify i f) := by
  refine h.shrink (fun l => .refl _) (fun t => .refl _) (.refl _) (fun j => ?_) (fun d hd => ?_) fun j => ?_
  · by_cases hj : j = i
    · subst hj
      rw [Table.watch_modify_same]
      exact hstays.imp_left fun habsent => ⟨habsent.lines, habsent.followers, habsent.deadlines⟩
    · rw [Table.watch_modify_ne T f hj]
      exact .inr fun hlive => ⟨hlive, rfl⟩
  · by_cases hj : d.watch = i
    · rw [hj, Table.watch_modify_same]
      exact hruns d hd hj
    · rw [Table.watch_modify_ne T f hj]
      exact h.deadlinesRun d hd
  · by_cases hj : j = i
    · subst hj
      rw [Table.watch_modify_same]
      exact hsealed
    · rw [Table.watch_modify_ne T f hj]
      exact h.sealedLines j

/-- The record of a watch that stands in no list may change but for its sealed steps. -/
theorem modify_absent (h : ListsInv T) (habsent : Absent T i) {f : Watch → Watch}
    (hsealed : (f (T.watch i)).SealedLines) : ListsInv (T.modify i f) :=
  h.modify (.inl habsent) (fun d hd hi => absurd hi (habsent.deadlines d hd)) hsealed

/-- A watch that runs, and goes on to run its step. -/
theorem modify_runs (h : ListsInv T) {f : Watch → Watch} (hruns : (T.watch i).runs = true)
    (hruns' : (f (T.watch i)).runs = true) (hsteps : (f (T.watch i)).steps = (T.watch i).steps)
    (hcurrent : (f (T.watch i)).current = (T.watch i).current) : ListsInv (T.modify i f) := by
  refine h.modify (.inr fun _ => ⟨Watch.live_of_runs hruns', ?_⟩) (fun _ _ _ => hruns')
    (Watch.SealedLines.of_live (h.sealedLines i) (Watch.live_of_runs hruns) hsteps)
  rw [Watch.step, hsteps, hcurrent, Watch.step]

/-! ### Step end -/

theorem endStep (h : ListsInv T) (i : Idx) : ListsInv (endStep T i) := by
  have hended := endStep_ends T i
  refine h.drop (fun j => watch_endStep ..) (fun l => ?_) (fun t => ?_) ?_
  · rw [hended.lines]
    exact List.filter_sublist
  · rw [hended.followers]
    split
    · exact List.filter_sublist
    · exact .refl _
  · rw [hended.deadlines]
    exact List.filter_sublist

/-- A watch whose step has ended stands in no list: only the target of its step held it as a follower (R57, R58). -/
theorem endStep_absent (h : ListsInv T) (i : Idx) : Absent (Machine.endStep T i) i := by
  have hended := endStep_ends T i
  refine ⟨fun l x hx => ?_, fun t ht => ?_, fun d hd => ?_⟩
  · rw [hended.lines] at hx
    exact of_decide_eq_true (List.mem_filter.1 hx).2
  · rw [hended.followers] at ht
    split at ht
    · exact of_decide_eq_true (List.mem_filter.1 ht).2 rfl
    · next htarget => exact htarget (h.followersFit t i ht).2
  · rw [hended.deadlines] at hd
    exact of_decide_eq_true (List.mem_filter.1 hd).2

/-- The lists a release leaves are those a step end leaves, for a watch without a deadline (R103). -/
theorem leaveLists_absent (h : ListsInv T) (hruns : (T.watch i).runs = false) :
    ListsInv (T.leaveLists i) ∧ Absent (T.leaveLists i) i := by
  have hnone (d : Deadline) (hd : d ∈ T.deadlines) : d.watch ≠ i := fun hi => by
    have := h.deadlinesRun d hd
    simp [hi, hruns] at this
  have hdeadlines : (T.leaveLists i).deadlines = T.deadlines := by unfold Table.leaveLists; split <;> rfl
  have habsent := h.endStep_absent i
  constructor
  · exact (h.endStep i).shrink (fun l => .refl _) (fun t => .refl _)
      (by rw [(endStep_ends T i).deadlines, List.filter_eq_self.2 (by simpa using hnone), hdeadlines])
      (fun j => .inr fun hlive => ⟨hlive, rfl⟩)
      (fun d hd => Table.watch_leaveLists T i d.watch ▸ h.deadlinesRun d (hdeadlines ▸ hd))
      fun j => Table.watch_leaveLists T i j ▸ h.sealedLines j
  · exact ⟨habsent.lines, habsent.followers, hdeadlines ▸ hnone⟩

end ListsInv

/-! ### Step begin -/

/-- A step's entries in a line's listener list are as many as the times it names the line. -/
theorem StepDesc.entriesOn_watch (d : StepDesc) (i : Idx) (l : Line) :
    (d.entriesOn i l).map Listener.watch = List.replicate (d.lines.count l) i := by
  have htriggers (ls : List Line) :
      (ls.flatMap fun x => if x = l then [Listener.mk i .trigger] else []).map Listener.watch =
        List.replicate (ls.count l) i := by
    induction ls with
    | nil => rfl
    | cons x ls ih =>
      rw [List.flatMap_cons, List.map_append, ih, List.count_cons]
      by_cases hx : x = l <;> simp [hx, List.replicate_succ]
  rw [StepDesc.entriesOn, List.map_append, htriggers, StepDesc.lines, List.count_append, List.replicate_add]
  congr 1
  cases d.guard with
  | none => rfl
  | some g => by_cases hg : g.1 = l <;> simp [hg]

theorem StepDesc.mem_entriesOn {d : StepDesc} {i : Idx} {l : Line} {x : Listener} (h : x ∈ d.entriesOn i l) :
    x.watch = i ∧ match x.role with
      | .trigger => l ∈ d.triggers
      | .guard => d.guard.map Prod.fst = some l := by
  rcases List.mem_append.1 h with htrigger | hguard
  · obtain ⟨m, hm, hx⟩ := List.mem_flatMap.1 htrigger
    split at hx
    · next heq =>
      obtain rfl := List.mem_singleton.1 hx
      exact ⟨rfl, heq ▸ hm⟩
    · exact absurd hx List.not_mem_nil
  · split at hguard
    · next heq =>
      obtain rfl := List.mem_singleton.1 hguard
      exact ⟨rfl, heq⟩
    · exact absurd hguard List.not_mem_nil

/-- The deadline of a step is its watch's. -/
theorem StepDesc.deadlineFrom_watch {d : StepDesc} {i : Idx} {t : Time} {x : Deadline}
    (h : d.deadlineFrom i t = some x) : x.watch = i := by
  unfold StepDesc.deadlineFrom at h
  split at h
  · exact Option.some.inj h ▸ rfl
  · obtain ⟨na, -, rfl⟩ := Option.map_eq_some_iff.1 h
    rfl

theorem insertDeadline_watches_nodup {now : Time} {d : Deadline} {list : List Deadline}
    (h : (list.map Deadline.watch).Nodup) (hd : ∀ x ∈ list, x.watch ≠ d.watch) :
    ((insertDeadline now d list).map Deadline.watch).Nodup := by
  rw [((insertDeadline_perm now d list).map Deadline.watch).nodup_iff, List.map_cons, List.nodup_cons]
  exact ⟨fun hmem => by obtain ⟨x, hx, heq⟩ := List.mem_map.1 hmem; exact hd x hx heq, h⟩

/-- A deadline of a running watch that has none enters the list. -/
theorem ListsInv.insert {T T' : Table} {now : Time} {x : Deadline} (h : ListsInv { T' with deadlines := T.deadlines })
    (hdeadlines : T'.deadlines = insertDeadline now x T.deadlines) (hruns : (T'.watch x.watch).runs = true)
    (hnone : ∀ y ∈ T.deadlines, y.watch ≠ x.watch) : ListsInv T' where
  deadlinesRun d hd := by
    rcases (mem_insertDeadline now x d T.deadlines).1 (hdeadlines ▸ hd) with rfl | hd
    · exact hruns
    · exact h.deadlinesRun d hd
  deadlinesOnce := hdeadlines ▸ insertDeadline_watches_nodup h.deadlinesOnce hnone
  listenersFit := h.listenersFit
  listenersOnce := h.listenersOnce
  followersFit := h.followersFit
  followersOnce := h.followersOnce
  sealedLines := h.sealedLines

/-- What of a step stands in the lists: its triggers and its target, and its guard if it has joined (R50 to R52). -/
structure StepDesc.PlacedAs (d d' : StepDesc) : Prop where
  kind : d'.kind = d.kind
  guard : d'.guard = none ∨ d'.guard = d.guard

namespace StepDesc.PlacedAs

variable {d d' : StepDesc} (h : d.PlacedAs d')

include h

theorem triggers : d'.triggers = d.triggers := by rw [StepDesc.triggers, h.kind, StepDesc.triggers]

theorem target : d'.target = d.target := by rw [StepDesc.target, h.kind, StepDesc.target]

theorem lines_nodup (hd : d.lines.Nodup) : d'.lines.Nodup := by
  unfold StepDesc.lines
  rw [h.triggers]
  rcases h.guard with hguard | hguard <;> rw [hguard]
  · rw [Option.map_none, Option.toList_none, List.append_nil]
    exact (List.nodup_append.1 hd).1
  · exact hd

theorem entryFits {i : Idx} {l : Line} {x : Listener} {w : Watch} (hx : x ∈ d'.entriesOn i l) (hw : w.step = some d) :
    EntryFits l x w := by
  refine ⟨d, hw, ?_⟩
  have hrole := (StepDesc.mem_entriesOn hx).2
  cases hr : x.role with
  | trigger =>
    rw [hr] at hrole
    exact h.triggers ▸ hrole
  | guard =>
    rw [hr] at hrole
    rcases h.guard with hguard | hguard <;> dsimp only at hrole <;> rw [hguard] at hrole
    · exact absurd hrole nofun
    · exact hrole

end StepDesc.PlacedAs

/-- A step begun by a watch that stands in no list keeps the lists, whole or placed by its kind alone. -/
theorem StepBegun.listsInv {c : Ctx} {T T' : Table} {i : Idx} {k : Nat} {t : Time} {d d' : StepDesc}
    (hb : StepBegun c T T' i k t d') (hd : d.PlacedAs d') (h : ListsInv T) (hruns : (T.watch i).runs = true)
    (habsent : Absent T i) (hstep : (T.watch i).steps[k]? = some d) : ListsInv T' := by
  have hruns' : (T'.watch i).runs = true := by rw [hb.watch]; exact hruns
  have hstep' : (T'.watch i).step = some d := by rw [hb.watch]; exact hstep
  have hsealed := h.sealedLines i (Watch.not_free_of_runs hruns) (Watch.not_draft_of_live (Watch.live_of_runs hruns))
  have hnodup : d'.lines.Nodup := hd.lines_nodup (hsealed d (List.mem_of_getElem? hstep))
  have hothers (j : Idx) (hj : j ≠ i) : T'.watch j = T.watch j := hb.others j hj
  have hplaced : ListsInv { T' with deadlines := T.deadlines } :=
    { deadlinesRun := fun x hx => (hothers x.watch (habsent.deadlines x hx)).symm ▸ h.deadlinesRun x hx
      deadlinesOnce := h.deadlinesOnce
      listenersFit := fun l x hx => by
        rcases List.mem_append.1 (hb.lines l ▸ hx) with hx | hx
        · exact (hothers x.watch (habsent.lines l x hx)).symm ▸ h.listenersFit l x hx
        · obtain ⟨hwatch, -⟩ := StepDesc.mem_entriesOn hx
          exact ⟨hwatch ▸ Watch.live_of_runs hruns', hwatch ▸ hd.entryFits hx hstep'⟩
      listenersOnce := fun l => by
        have hlist : (T'.listenersOf l).map Listener.watch =
            (T.listenersOf l).map Listener.watch ++ List.replicate (d'.lines.count l) i := by
          rw [hb.lines, List.map_append, StepDesc.entriesOn_watch]
        refine hlist ▸ List.nodup_append.2 ⟨h.listenersOnce l, ?_, fun a ha b hb' => ?_⟩
        · exact List.nodup_replicate.2 (List.nodup_iff_count_le_one.1 hnodup l)
        · obtain ⟨x, hx, rfl⟩ := List.mem_map.1 ha
          exact List.eq_of_mem_replicate hb' ▸ habsent.lines l x hx
      followersFit := fun x f hf => by
        rcases List.mem_append.1 (hb.followers x ▸ hf) with hf | hf
        · exact (hothers f fun hi => habsent.followers x (hi ▸ hf)).symm ▸ h.followersFit x f hf
        · split at hf
          · next htarget =>
            obtain rfl := List.mem_singleton.1 hf
            exact ⟨Watch.live_of_runs hruns',
              (Watch.followTarget_of_step hstep').trans (hd.target ▸ htarget)⟩
          · exact absurd hf List.not_mem_nil
      followersOnce := fun x => by
        have hlist : T'.followersOf x = T.followersOf x ++ if d'.target = some x then [i] else [] := hb.followers x
        refine hlist ▸ List.nodup_append.2 ⟨h.followersOnce x, ?_, fun a ha b hb' hab => ?_⟩
        · split
          · exact List.nodup_singleton i
          · exact List.nodup_nil
        · split at hb'
          · exact habsent.followers x (List.mem_singleton.1 hb' ▸ hab ▸ ha)
          · exact List.not_mem_nil hb'
      sealedLines := fun j => by
        by_cases hj : j = i
        · subst hj
          exact Watch.SealedLines.of_live (h.sealedLines j) (Watch.live_of_runs hruns) (by
            show (T'.watch j).steps = _
            rw [hb.watch])
        · exact (hothers j hj).symm ▸ h.sealedLines j }
  have hdeadlines := hb.deadlines
  split at hdeadlines
  · next x hx =>
    have hi := StepDesc.deadlineFrom_watch hx
    exact hplaced.insert hdeadlines (hi ▸ hruns') (hi ▸ habsent.deadlines)
  · rwa [← hdeadlines] at hplaced

/-! ### Cascades -/

/-- A conclusion's record changes a watch whose step has ended. -/
theorem recordedTable_eq_modify (T : Table) (i : Idx) (o : WOutcome) (cause : Cause) (t : Time) :
    recordedTable T i o cause t = (endStep T i).modify i fun w => w.concludedWith o cause t := by
  have htarget : ((T.modify i fun w => w.concludedWith o cause t).watch i).followTarget = (T.watch i).followTarget := by
    rw [Table.watch_modify_same]
    rfl
  unfold recordedTable endStep
  rw [htarget]
  dsimp only
  cases (T.watch i).followTarget <;> rfl

/-- A watch off every list may begin a step. -/
structure MayBegin (T : Table) (i : Idx) : Prop where
  lists : ListsInv T
  runs : (T.watch i).runs = true
  absent : Absent T i

theorem MayBegin.of_modify {T : Table} {i : Idx} {f : Watch → Watch} (h : ListsInv T) (habsent : Absent T i)
    (hruns : (f (T.watch i)).runs = true) (hsealed : (f (T.watch i)).SealedLines) : MayBegin (T.modify i f) i where
  lists := h.modify_absent habsent hsealed
  runs := by rwa [Table.watch_modify_same]
  absent := ⟨habsent.lines, habsent.followers, habsent.deadlines⟩

/-- A begun step's own record, with no list joined. -/
theorem MayBegin.begun {T : Table} {i : Idx} (h : MayBegin T i) (k : Nat) (t : Time) :
    ListsInv (T.modify i fun w => w.begun k t) :=
  h.lists.modify_absent h.absent (Watch.SealedLines.of_live (h.lists.sealedLines i) (Watch.live_of_runs h.runs) rfl)

/-- The record of a watch that rests, IDLE or CONCLUDED, set to run. -/
theorem ListsInv.mayBegin {T : Table} {i : Idx} (h : ListsInv T) {f : Watch → Watch}
    (hstate : (T.watch i).state = .idle ∨ (T.watch i).state = .concluded) (hruns : (f (T.watch i)).runs = true)
    (hsteps : (f (T.watch i)).steps = (T.watch i).steps) : MayBegin (T.modify i f) i := by
  refine .of_modify h (h.absent ?_) hruns fun _ _ => hsteps ▸ h.sealedLines i ?_ ?_
  all_goals rcases hstate with hstate | hstate <;> simp [hstate, Watch.live, Watch.runs]

theorem listsInv_rules (c : Ctx) : CascadeRules c (fun _ => True) ListsInv
    (fun T i => ListsInv T ∧ (T.watch i).live = true) (fun T i => ListsInv T ∧ (T.watch i).runs = true)
    fun T i _ => MayBegin T i where
  live hT hi := ⟨hT, hi⟩
  runs hT hi := ⟨hT, hi⟩
  completes hi := ⟨hi.1, Watch.live_of_runs hi.2⟩
  armable _ := trivial
  ended {T i} hi := ⟨hi.1.endStep i, (watch_endStep T i i).symm ▸ hi.2⟩
  concluded {T i o cause} t hi hcause := by
    obtain ⟨hT, hlive⟩ := hi
    rw [recordedTable_eq_modify]
    refine (hT.endStep i).modify_absent (hT.endStep_absent i) ?_
    rw [watch_endStep]
    exact Watch.SealedLines.of_live (hT.sealedLines i) hlive rfl
  next {T i} hi hlt := by
    obtain ⟨hT, hruns⟩ := hi
    refine .of_modify (hT.endStep i) (hT.endStep_absent i) rfl ?_
    rw [watch_endStep]
    exact Watch.SealedLines.of_live (hT.sealedLines i) (Watch.live_of_runs hruns) rfl
  stands hb hstep _ hbegun := hbegun.listsInv ⟨rfl, .inr rfl⟩ hb.lists hb.runs hb.absent hstep
  guarded {_ _ _ _ _ d} hb hstep _ hbegun := by
    refine ⟨hbegun.listsInv (d := d) ⟨rfl, .inl rfl⟩ hb.lists hb.runs hb.absent hstep, ?_⟩
    rw [hbegun.watch]
    exact Watch.live_of_runs hb.runs
  lost {T i k} t hb := by
    refine ⟨hb.begun k t, ?_⟩
    rw [Table.watch_modify_same]
    exact Watch.live_of_runs hb.runs
  stepless {_ _ k} t hb _ := hb.begun k t
  armed t hT hidle _ := hT.mayBegin (.inl hidle) rfl rfl
  rearmed t hT hstate _ := hT.mayBegin (.inr hstate) rfl rfl
  released {T i} hT hheld := by
    have hlive : (T.watch i).live = true := by simp [Watch.live, hheld]
    obtain ⟨hleft, habsent⟩ := hT.leaveLists_absent (i := i) (by simp [Watch.runs, hheld])
    refine .of_modify hleft habsent (Watch.releasedNow_runs _) ?_
    rw [Table.watch_leaveLists]
    exact Watch.SealedLines.of_live (hT.sealedLines i) hlive rfl
  held {T i} hT hruns := by
    have hdropped : ListsInv (T.dropDeadline i) :=
      hT.drop (fun _ => rfl) (fun _ => .refl _) (fun _ => .refl _) List.filter_sublist
    have hheld : ListsInv ((T.dropDeadline i).modify i Watch.heldNow) := by
      refine hdropped.modify (.inr fun _ => ⟨rfl, rfl⟩) (fun d hd hi => ?_)
        (Watch.SealedLines.of_live (hT.sealedLines i) (Watch.live_of_runs hruns) rfl)
      exact absurd hi (of_decide_eq_true (List.mem_filter.1 hd).2)
    exact hheld
  skipped {T w} hT hw := hT.modify (.inr fun hlive => ⟨hlive, rfl⟩)
    (fun d hd hi => show (T.watch w).runs = true from hi ▸ hT.deadlinesRun d hd) (hT.sealedLines w)
  sentOut _ hT := { hT with }
  sentNotice _ hT := { hT with }
  counted {T i d p q kind n} hT hruns hstep hkind := by
    have hcounted : (T.watch i).counted =
        { T.watch i with state := .running, remaining := (T.watch i).remaining - 1 } := by
      rw [Watch.counted, Watch.progressed_of_runs hruns]
    have hmodified : ListsInv (T.modify i Watch.counted) :=
      hT.modify_runs hruns (by rw [hcounted]; rfl) (by rw [hcounted]) (by rw [hcounted])
    refine ⟨⟨hmodified, ?_⟩, fun _ => ?_⟩
    · rw [Table.watch_modify_same, hcounted]
      rfl
    · exact hmodified.drop (fun _ => rfl) (fun _ => .refl _) (fun _ => .refl _) List.filter_sublist
  entered {T i d p v mn mx} stamp hT hruns hstep hkind := by
    have hprogressed := Watch.progressed_of_runs hruns
    have hmodified : ListsInv (T.modify i (Watch.entered stamp)) :=
      hT.modify_runs hruns (by rw [Watch.entered, hprogressed]; rfl) (by rw [Watch.entered, hprogressed])
        (by rw [Watch.entered, hprogressed])
    have hdropped : ListsInv ((T.modify i (Watch.entered stamp)).dropDeadline i) :=
      hmodified.drop (fun _ => rfl) (fun _ => .refl _) (fun _ => .refl _) List.filter_sublist
    cases mx with
    | none => exact hdropped
    | some m =>
      refine ListsInv.insert (T := (T.modify i (Watch.entered stamp)).dropDeadline i) hdropped rfl ?_ fun d hd => ?_
      · show ((T.modify i (Watch.entered stamp)).watch i).runs = true
        rw [Table.watch_modify_same, Watch.entered, hprogressed]
        rfl
      · exact of_decide_eq_true (List.mem_filter.1 hd).2
  left {T i} s hT hruns := by
    refine ⟨hT.modify_runs hruns hruns rfl rfl, ?_⟩
    rw [Table.watch_modify_same]
    exact hruns

/-! ### The acts of the engine -/

/-- A definition that SEAL finds sound names each line of a step once (R37). -/
theorem lines_nodup_of_examine {T : Table} {i : Idx} (h : examine T i = none) :
    ∀ d ∈ (T.watch i).steps, d.lines.Nodup := by
  intro d hd
  have hsteps : firstFault (sealStep T i) 0 (T.watch i).steps = none := by
    unfold examine at h
    dsimp only at h
    split at h
    · exact absurd h nofun
    · split at h
      · exact absurd h nofun
      · simpa using (Option.or_eq_none_iff.1 h).1
  have hfault : stepFault d = none := by
    have hsound := (firstFault_eq_none (sealStep T i) 0 _).1 hsteps d hd
    rw [sealStep_eq] at hsound
    exact (Option.or_eq_none_iff.1 hsound).1
  rw [stepFault_eq] at hfault
  split at hfault
  · next hdiffer =>
    split at hfault
    · next hapart =>
      have htriggers : d.triggers.Nodup := by
        unfold StepDesc.triggers
        unfold LinesDiffer at hdiffer
        cases hkind : d.kind with
        | edge p q kind n =>
          cases q with
          | none => simp
          | some q =>
            rw [hkind] at hdiffer
            simpa using hdiffer
        | span | delay | follow => simp
      unfold StepDesc.lines
      refine List.nodup_append.2 ⟨htriggers, ?_, fun a ha b hb => ?_⟩
      · cases d.guard <;> simp
      · unfold GuardApart at hapart
        cases hguard : d.guard with
        | none => simp [hguard] at hb
        | some g =>
          rw [hguard] at hapart hb
          rintro rfl
          simp only [Option.map_some, Option.toList_some, List.mem_singleton] at hb
          simp [← hb, ha] at hapart
    · exact absurd hfault nofun
  · exact absurd hfault nofun

namespace ListsInv

variable {e e' : Engine} {c : Ctx}

theorem of_sameRecords (h : ListsInv e.table) (hsame : SameRecords e e') : ListsInv e'.table := by
  have htable : e'.table = ⟨e.table.watches, e.table.listeners, e.table.followers, e.table.deadlines,
      e'.table.outPath, e'.table.noticePath⟩ := by
    rw [← hsame.watches, ← hsame.listeners, ← hsame.followers, ← hsame.deadlines]
  rw [htable]
  exact { h with }

/-- The record of a watch that is not live, and stands in no list. -/
theorem modify_resting (h : ListsInv e.table) {i : Idx} {f : Watch → Watch} (hlive : (e.watch i).live = false)
    (hsealed : (f (e.watch i)).SealedLines) : ListsInv (e.modify i f).table :=
  h.modify_absent (h.absent hlive) hsealed

/-- A definition command: the watch is DRAFT before and after (R28). -/
theorem modify_draft (h : ListsInv e.table) {i : Idx} {f : Watch → Watch} (hdraft : (e.watch i).state = .draft)
    (hdraft' : (f (e.watch i)).state = .draft) : ListsInv (e.modify i f).table :=
  h.modify_resting (Watch.live_eq_false hdraft (by decide)) (.of_draft hdraft')

/-- Freeing a watch that stands in no list. -/
theorem freed (h : ListsInv e.table) {i : Idx} (habsent : Absent e.table i) : ListsInv (e.freeWatch i).table := by
  have hsent : ListsInv ((e.table.sendOut (.purge i)).sendNotice (.purge i)) := { h with }
  exact hsent.modify_absent (f := fun _ => Watch.free)
    ⟨habsent.lines, habsent.followers, habsent.deadlines⟩ fun hfree => absurd rfl hfree

theorem clearFollowers {T : Table} (h : ListsInv T) (i : Idx) : ListsInv (T.clearFollowers i) := by
  refine h.drop (fun _ => rfl) (fun _ => .refl _) (fun t => ?_) (.refl _)
  rw [Table.followersOf_clearFollowers]
  split
  · exact List.nil_sublist _
  · exact .refl _

/-- Every act of the engine keeps the lists. -/
theorem act (ha : EngineAct c e e') (h : ListsInv e.table) : ListsInv e'.table := by
  have hrules := listsInv_rules c
  cases ha with
  | none => exact h
  | created p tag i htag hnew hfree =>
    exact h.modify_resting (f := fun _ => { Watch.free with state := .draft, tag := some tag, owner := some p })
      (Watch.live_eq_false hfree (by decide)) (.of_draft rfl)
  | stepAdded i d hdraft => exact h.modify_draft (f := fun w => { w with steps := w.steps ++ [d] }) hdraft hdraft
  | stepDropped i hdraft => exact h.modify_draft (f := fun w => { w with steps := w.steps.dropLast }) hdraft hdraft
  | metActionsSet i acts hdraft => exact h.modify_draft hdraft hdraft
  | failActionsSet i acts hdraft => exact h.modify_draft hdraft hdraft
  | optionsSet i r g t hdraft => exact h.modify_draft hdraft hdraft
  | sealed i hdraft hsound =>
    exact h.modify_resting (Watch.live_eq_false hdraft (by decide)) fun _ _ => lines_nodup_of_examine hsound
  | reopened i hidle => exact h.modify_resting (Watch.live_eq_false hidle (by decide)) (.of_draft rfl)
  | acked i hstate =>
    refine h.modify_resting (Watch.live_eq_false hstate (by decide)) fun _ _ => ?_
    have hstate' : (e.table.watch i).state = .concluded := hstate
    exact h.sealedLines i (by simp [hstate']) (by simp [hstate'])
  | retired i hlive => exact h.freed (h.absent hlive)
  | cleared i =>
    have habsent := h.endStep_absent i
    refine freed (e := e.withTable ((Machine.endStep e.table i).clearFollowers i)) ((h.endStep i).clearFollowers i)
      ⟨habsent.lines, fun t ht => ?_, habsent.deadlines⟩
    have ht : i ∈ ((Machine.endStep e.table i).clearFollowers i).followersOf t := ht
    rw [Table.followersOf_clearFollowers] at ht
    split at ht
    · exact List.not_mem_nil ht
    · exact habsent.followers t ht
  | armed i hidle hlines => exact hrules.armWatch hrules.concluder c.now h hidle hlines
  | held i hruns => exact hrules.held h hruns
  | released i hheld => exact hrules.releaseWatch hrules.concluder h hheld
  | cancelled i hlive => exact hrules.concluder c.now (hrules.live h hlive) concludes_cancelled
  | expired d rest hdeadlines =>
    refine hrules.expire ⟨h.drop (fun _ => rfl) (fun _ => .refl _) (fun _ => .refl _) ?_, ?_⟩
    · rw [hdeadlines]
      exact List.sublist_cons_self d rest
    · exact h.deadlinesRun d (hdeadlines ▸ List.mem_cons_self)

theorem reset : ListsInv Engine.reset.table := by
  constructor <;> simp [Engine.reset, Table.reset, Table.listenersOf, Table.followersOf, Table.watch, Watch.free]

end ListsInv

theorem listsInv_engineRules : EngineRules fun e => ListsInv e.table where
  congr hsame h := h.of_sameRecords hsame
  act ha h := h.act ha
  serve c l x h := (listsInv_rules c).serveLine l x h
  reset := .reset

/-- Settles O56: a step begun joins lists that its watch stands in none of, and a step ended leaves them all. -/
theorem stepKeepsLists : Obligations.StepKeepsLists := fun _ _ h hstep => listsInv_engineRules.step h hstep

end Sys2Proof.Machine

/-! PROOFS. Every step keeps the watch records and the tag map well formed (O57). -/

namespace Sys2Proof.Machine

open Sys2Proof

/-! ### Records of watches that are not live -/

namespace WatchWf

variable {w : Watch} (h : WatchWf w)

include h

/-- A record in use is one with a tag (R2, R6). -/
theorem in_use_iff : w.state ≠ .free ↔ w.tag.isSome = true := by
  refine ⟨fun hfree => (h.identity hfree).1, fun htag hfree => ?_⟩
  rw [h.free hfree] at htag
  exact absurd htag nofun

/-- A definition command writes items of R1 and R2 within their ranges. -/
theorem redefined {w' : Watch} (hdraft : w.state = .draft)
    (hrest : w' = { w with steps := w'.steps, metActions := w'.metActions, failActions := w'.failActions
                           rep := w'.rep, group := w'.group, route := w'.route })
    (hcounts : w'.steps.length ≤ 6 ∧ w'.metActions.length ≤ 4 ∧ w'.failActions.length ≤ 4)
    (hranges : ∀ d ∈ w'.steps, d.InRange) : WatchWf w' := by
  have hdraft' : w'.state = .draft := hrest ▸ hdraft
  have hlive : w'.live = false := Watch.live_eq_false hdraft' (by decide)
  have hrun : RunWf w' := hrest ▸ { h.run with }
  refine { hrun with
    counts := hcounts, ranges := hranges, free := ?_, identity := ?_, sealedCount := ?_, progress := ?_ }
  · simp [hdraft']
  · rw [hrest]
    exact h.identity
  · exact fun _ hne => absurd hdraft' hne
  · simp [hlive]

/-- A watch that is not live comes to rest in another state: SEAL, REOPEN and ACK (R39, R41, R97). -/
theorem rested {st : WState} (hfree : w.state ≠ .free) (hlive : w.live = false) (hst : st = .draft ∨ st = .idle)
    (hsteps : st = .idle → w.steps ≠ []) : WatchWf { w with state := st } := by
  have hheld : ¬w.heldFrom.isSome = true := by
    rw [h.held]
    rintro hheld
    simp [Watch.live, hheld] at hlive
  refine { h with free := ?_, identity := fun _ => h.identity hfree, sealedCount := ?_, held := ?_, progress := ?_ }
  · rcases hst with rfl | rfl <;> nofun
  · rcases hst with rfl | rfl
    · exact fun _ hne => absurd rfl hne
    · exact fun _ _ => hsteps rfl
  · rcases hst with rfl | rfl <;> simpa using hheld
  · rcases hst with rfl | rfl <;> nofun

end WatchWf

theorem watchWf_free : WatchWf Watch.free := by
  constructor <;> simp [Watch.free, Watch.live, Watch.runs]

theorem watchWf_created {tag : BitVec 16} (htag : tag ≠ 0) (p : Port) :
    WatchWf { Watch.free with state := .draft, tag := some tag, owner := some p } := by
  constructor <;> simp [Watch.free, Watch.live, Watch.runs]
  exact htag

/-- A definition that SEAL finds sound has a step (R36). -/
theorem steps_ne_nil_of_examine {T : Table} {i : Idx} (h : examine T i = none) : (T.watch i).steps ≠ [] := by
  intro hnil
  unfold examine at h
  rw [if_pos hnil] at h
  exact absurd h nofun

/-! ### The acts of the engine -/

namespace RecordsInv

variable {e e' : Engine} {c : Ctx}

/-- The map names each watch by its tag (R6). -/
theorem mem_tags (h : RecordsInv e) (tag : BitVec 16) (i : Idx) : (tag, i) ∈ e.tags ↔ (e.watch i).tag = some tag := by
  rw [h.tags, (h.records i).in_use_iff]
  exact ⟨And.right, fun htag => ⟨htag ▸ rfl, htag⟩⟩

theorem of_mem_tags (hrecords : ∀ j, WatchWf (e'.watch j))
    (htags : ∀ tag j, (tag, j) ∈ e'.tags ↔ (e'.watch j).tag = some tag) (honce : (e'.tags.map Prod.fst).Nodup) :
    RecordsInv e' where
  records := hrecords
  tags tag j := by
    rw [htags, (hrecords j).in_use_iff]
    exact ⟨fun htag => ⟨htag ▸ rfl, htag⟩, And.right⟩
  once := honce

/-- Records change and keep their tags. -/
theorem of_records (h : RecordsInv e) (hrecords : ∀ j, WatchWf (e'.watch j)) (htags : e'.tags = e.tags)
    (htag : ∀ j, (e'.watch j).tag = (e.watch j).tag) : RecordsInv e' :=
  .of_mem_tags hrecords (fun tag j => by rw [htags, htag]; exact h.mem_tags tag j) (htags ▸ h.once)

/-- One record changes and keeps its tag. -/
theorem replaced (h : RecordsInv e) {i : Idx} {w : Watch} (hw : ∀ j, e'.watch j = if j = i then w else e.watch j)
    (htags : e'.tags = e.tags) (hwf : WatchWf w) (htag : w.tag = (e.watch i).tag) : RecordsInv e' := by
  refine h.of_records (fun j => ?_) htags fun j => ?_ <;> rw [hw] <;> split
  · exact hwf
  · exact h.records j
  · next hj => rw [hj, htag]
  · rfl

theorem modify (h : RecordsInv e) {i : Idx} {f : Watch → Watch} (hwf : WatchWf (f (e.watch i)))
    (htag : (f (e.watch i)).tag = (e.watch i).tag) : RecordsInv (e.modify i f) :=
  h.replaced (Table.watch_modify e.table i · f) rfl hwf htag

/-- A definition command (R28). -/
theorem modify_draft (h : RecordsInv e) {i : Idx} {f : Watch → Watch} (hdraft : (e.watch i).state = .draft)
    (hrest : f (e.watch i) = { e.watch i with
      steps := (f (e.watch i)).steps, metActions := (f (e.watch i)).metActions
      failActions := (f (e.watch i)).failActions, rep := (f (e.watch i)).rep, group := (f (e.watch i)).group
      route := (f (e.watch i)).route })
    (hcounts : (f (e.watch i)).steps.length ≤ 6 ∧ (f (e.watch i)).metActions.length ≤ 4 ∧
      (f (e.watch i)).failActions.length ≤ 4)
    (hranges : ∀ d ∈ (f (e.watch i)).steps, d.InRange) : RecordsInv (e.modify i f) :=
  h.modify ((h.records i).redefined hdraft hrest hcounts hranges) (by rw [hrest])

/-- A watch that is not live comes to rest in another state. -/
theorem modify_rested (h : RecordsInv e) {i : Idx} {st : WState} (hfree : (e.watch i).state ≠ .free)
    (hlive : (e.watch i).live = false) (hst : st = .draft ∨ st = .idle) (hsteps : st = .idle → (e.watch i).steps ≠ []) :
    RecordsInv (e.modify i fun w => { w with state := st }) :=
  h.modify ((h.records i).rested hfree hlive hst hsteps) rfl

/-- A freed watch takes its tag out of the map (R12, R114). -/
theorem freed (h : RecordsInv e) {i : Idx} (hw : ∀ j, e'.watch j = if j = i then Watch.free else e.watch j)
    (htags : e'.tags = e.tags.filter fun x => x.2 ≠ i) : RecordsInv e' := by
  refine .of_mem_tags (fun j => ?_) (fun tag j => ?_) ?_
  · rw [hw]
    split
    · exact watchWf_free
    · exact h.records j
  · rw [hw, htags, List.mem_filter, h.mem_tags]
    split
    · next hj => simp [hj, Watch.free]
    · next hj => simp [hj]
  · rw [htags]
    exact h.once.sublist (List.filter_sublist.map _)

/-- A created watch brings its tag into the map (R10). -/
theorem created (h : RecordsInv e) {p : Port} {tag : BitVec 16} {i : Idx} (htag : tag ≠ 0)
    (hnew : ∀ j, (tag, j) ∉ e.tags) (hfree : (e.watch i).state = .free)
    (hw : ∀ j, e'.watch j =
      if j = i then { Watch.free with state := .draft, tag := some tag, owner := some p } else e.watch j)
    (htags : e'.tags = e.tags ++ [(tag, i)]) : RecordsInv e' := by
  have hnone : (e.watch i).tag = none := by
    rw [(h.records i).free hfree]
    rfl
  refine .of_mem_tags (fun j => ?_) (fun tag' j => ?_) ?_
  · rw [hw]
    split
    · exact watchWf_created htag p
    · exact h.records j
  · rw [hw, htags, List.mem_append, h.mem_tags, List.mem_singleton, Prod.mk.injEq]
    split
    · next hj => simp [hj, hnone, eq_comm]
    · next hj => simp [hj]
  · rw [htags, List.map_append, List.nodup_append]
    refine ⟨h.once, List.nodup_singleton _, fun a ha b hb => ?_⟩
    obtain ⟨⟨tag', j⟩, hx, rfl⟩ := List.mem_map.1 ha
    obtain rfl := List.mem_singleton.1 hb
    rintro rfl
    exact hnew j hx

/-- A cascade keeps every tag. -/
theorem cascade (h : RecordsInv e) {T : Table} (hsame : ∀ j, SameDefinition (e.watch j) (T.watch j))
    (hrecords : ∀ j, WatchWf (T.watch j)) : RecordsInv (e.withTable T) :=
  h.of_records hrecords rfl fun j => (hsame j).identity.1

theorem of_sameRecords (h : RecordsInv e) (hsame : SameRecords e e') : RecordsInv e' :=
  h.of_records (fun j => hsame.watch j ▸ h.records j) hsame.tags fun j => congrArg Watch.tag (hsame.watch j)

/-- Every act of the engine keeps the records, with the deadlines those of watches that run. -/
theorem act (ha : EngineAct c e e') (hlists : ListsInv e.table) (h : RecordsInv e) : RecordsInv e' := by
  have hrules := (watchWf_rules c).cascade
  cases ha with
  | none => exact h
  | created p tag i htag hnew hfree =>
    exact h.created htag hnew hfree (Table.watch_modify e.table i · fun _ => _) rfl
  | stepAdded i d hdraft hlen hrange =>
    have hwf := h.records i
    have hset : RecordsInv (e.modify i fun w => { w with steps := w.steps ++ [d] }) := by
      refine h.modify_draft hdraft rfl ⟨?_, hwf.counts.2⟩ fun x hx => ?_
      · rw [List.length_append]
        exact hlen
      · rcases List.mem_append.1 hx with hx | hx
        · exact hwf.ranges x hx
        · exact List.mem_singleton.1 hx ▸ hrange
    exact { hset with }
  | stepDropped i hdraft =>
    have hwf := h.records i
    have hset : RecordsInv (e.modify i fun w => { w with steps := w.steps.dropLast }) :=
      h.modify_draft hdraft rfl ⟨(List.dropLast_sublist _).length_le.trans hwf.counts.1, hwf.counts.2⟩
        fun x hx => hwf.ranges x (List.mem_of_mem_dropLast hx)
    exact { hset with }
  | metActionsSet i acts hdraft hlen =>
    have hwf := h.records i
    exact h.modify_draft hdraft rfl ⟨hwf.counts.1, hlen, hwf.counts.2.2⟩ hwf.ranges
  | failActionsSet i acts hdraft hlen =>
    have hwf := h.records i
    exact h.modify_draft hdraft rfl ⟨hwf.counts.1, hwf.counts.2.1, hlen⟩ hwf.ranges
  | optionsSet i r g t hdraft =>
    have hwf := h.records i
    exact h.modify_draft hdraft rfl hwf.counts hwf.ranges
  | sealed i hdraft hsound =>
    exact h.modify_rested (by simp [hdraft]) (Watch.live_eq_false hdraft (by decide)) (.inr rfl) fun _ =>
      steps_ne_nil_of_examine hsound
  | reopened i hidle =>
    exact h.modify_rested (by simp [hidle]) (Watch.live_eq_false hidle (by decide)) (.inl rfl) nofun
  | acked i hstate =>
    exact h.modify_rested (by simp [hstate]) (Watch.live_eq_false hstate (by decide)) (.inr rfl) fun _ =>
      (h.records i).sealedCount (by simp [hstate]) (by simp [hstate])
  | retired i => exact h.freed (Table.watch_modify e.table i · fun _ => Watch.free) rfl
  | cleared i => exact h.freed (clearMember_watch e i) rfl
  | armed i hidle hlines =>
    exact h.cascade (cascade_sameDefinition.armWatch (cascade_sameDefinition.concluder c) c e.table i c.now)
      (hrules.armWatch hrules.concluder c.now h.records hidle hlines)
  | held i hruns => exact h.cascade (cascade_sameDefinition.holdWatch e.table i) (hrules.held h.records hruns)
  | released i hheld =>
    exact h.cascade (cascade_sameDefinition.releaseWatch (cascade_sameDefinition.concluder c) c e.table i)
      (hrules.releaseWatch hrules.concluder h.records hheld)
  | cancelled i hlive =>
    exact h.cascade (cascade_sameDefinition.concluder c e.table i .cancelled .host c.now)
      (hrules.concluder c.now (hrules.live h.records hlive) concludes_cancelled)
  | expired d rest hdeadlines =>
    have hruns : (e.watch d.watch).runs = true := hlists.deadlinesRun d (hdeadlines ▸ List.mem_cons_self)
    exact h.cascade (cascade_sameDefinition.expire c { e.table with deadlines := rest } d)
      (hrules.expire (.of_all h.records ((h.records d.watch).toRunning hruns)))

theorem reset : RecordsInv Engine.reset where
  records i := by
    have hfree : Engine.reset.watch i = Watch.free := by simp [Engine.reset, Table.reset, Engine.watch, Table.watch]
    exact hfree ▸ watchWf_free
  tags tag i := by simp [Engine.reset, Table.reset, Engine.watch, Table.watch, Watch.free]
  once := List.nodup_nil

end RecordsInv

/-- The records together with the lists, which name the watches an expiry may reach. -/
theorem listsAndRecords_rules : EngineRules fun e => ListsInv e.table ∧ RecordsInv e where
  congr hsame h := ⟨h.1.of_sameRecords hsame, h.2.of_sameRecords hsame⟩
  act ha h := ⟨h.1.act ha, h.2.act ha h.1⟩
  serve {e} c l x h := ⟨(listsInv_rules c).serveLine l x h.1,
    h.2.cascade (cascade_sameDefinition.serveLine c e.table l x) ((watchWf_rules c).cascade.serveLine l x h.2.records)⟩
  reset := ⟨.reset, .reset⟩

/-- Settles O57: a cascade keeps each record well formed and its tag, and the commands that write a tag or a definition
check it. -/
theorem stepKeepsRecords : Obligations.StepKeepsRecords := fun _ _ hlists h hstep =>
  (listsAndRecords_rules.step ⟨hlists, h⟩ hstep).2

end Sys2Proof.Machine

/-! PROOFS. Every step keeps every line named by a live watch enabled in the engine line view (O60). -/

namespace Sys2Proof.Machine

open Sys2Proof

/-! ### The lines that live watches name -/

/-- Every line that a live watch of the table names is enabled in the view (R141). -/
def NamedEnabled (view : Vector LineView 24) (T : Table) : Prop :=
  ∀ i, (T.watch i).live = true → LinesOn view (T.watch i).steps

namespace NamedEnabled

variable {view view' : Vector LineView 24} {T T' : Table} {e e' : Engine} {c : Ctx}

/-- A view that shows no line disabled that was enabled. -/
theorem mono (h : NamedEnabled view T) (hview : ∀ l : Line, view[l].enabled = true → view'[l].enabled = true) :
    NamedEnabled view' T := fun i hlive l hl => hview l (h i hlive l hl)

theorem of_watches (h : NamedEnabled view T) (hwatches : T'.watches = T.watches) : NamedEnabled view T' :=
  fun i hlive => by
    rw [Table.watch_congr hwatches] at hlive ⊢
    exact h i hlive

/-- A record changes and is not live after. -/
theorem replaced (h : NamedEnabled view T) {i : Idx} {w : Watch}
    (hw : ∀ j, T'.watch j = if j = i then w else T.watch j) (hlive : w.live = false) : NamedEnabled view T' := by
  intro j hj
  rw [hw] at hj ⊢
  split at hj
  · exact absurd hj (by simp [hlive])
  · next hne =>
    rw [if_neg hne]
    exact h j hj

theorem modify (h : NamedEnabled view T) {i : Idx} {f : Watch → Watch} (hlive : (f (T.watch i)).live = false) :
    NamedEnabled view (T.modify i f) :=
  h.replaced (Table.watch_modify T i · f) hlive

/-- A definition command: the watch is DRAFT before and after (R28). -/
theorem modify_draft (h : NamedEnabled view e.table) {i : Idx} {f : Watch → Watch}
    (hdraft : (e.watch i).state = .draft) (hstate : ∀ w, (f w).state = w.state) :
    NamedEnabled view (e.modify i f).table := by
  have hdraft' : (f (e.table.watch i)).state = .draft := (hstate _).trans hdraft
  exact h.modify (Watch.live_eq_false hdraft' (by decide))

/-- Every act of the engine keeps what live watches name enabled: a run starts where its lines are (R43). -/
theorem act (ha : EngineAct c e e') (hlists : ListsInv e.table) (h : NamedEnabled c.view e.table) :
    NamedEnabled c.view e'.table := by
  have hrules := (linesOn_rules c).cascade
  cases ha with
  | none => exact h
  | created p tag i => exact h.replaced (Table.watch_modify e.table i · fun _ => _) rfl
  | stepAdded i d hdraft =>
    exact h.modify_draft (f := fun w => { w with steps := w.steps ++ [d] }) hdraft fun _ => rfl
  | stepDropped i hdraft =>
    exact h.modify_draft (f := fun w => { w with steps := w.steps.dropLast }) hdraft fun _ => rfl
  | metActionsSet i acts hdraft => exact h.modify_draft hdraft fun _ => rfl
  | failActionsSet i acts hdraft => exact h.modify_draft hdraft fun _ => rfl
  | optionsSet i r g t hdraft => exact h.modify_draft hdraft fun _ => rfl
  | sealed | reopened | acked => exact h.modify rfl
  | retired i => exact h.replaced (Table.watch_modify e.table i · fun _ => Watch.free) rfl
  | cleared i => exact h.replaced (clearMember_watch e i) rfl
  | armed i hidle hlines => exact hrules.armWatch hrules.concluder c.now h hidle hlines
  | held i hruns => exact hrules.held h hruns
  | released i hheld => exact hrules.releaseWatch hrules.concluder h hheld
  | cancelled i hlive => exact hrules.concluder c.now (hrules.live h hlive) concludes_cancelled
  | expired d rest hdeadlines =>
    have hruns : (e.table.watch d.watch).runs = true :=
      hlists.deadlinesRun d (hdeadlines ▸ List.mem_cons_self)
    exact hrules.expire (.of_all h (h d.watch (Watch.live_of_runs hruns)))

theorem reset (view : Vector LineView 24) : NamedEnabled view Table.reset := by
  intro i hlive
  simp [Table.reset, Table.watch, Watch.free, Watch.live, Watch.runs] at hlive

end NamedEnabled

/-! ### One line's configuration under way -/

theorem State.view_set (s : State) (l m : Line) (v : LineView) :
    (s.engine.view.set l v)[m] = if m = l then v else s.view m := by
  simp only [State.view, Fin.getElem_fin]
  rw [Vector.getElem_set]
  simp only [Fin.ext_iff, eq_comm]

/-- Nothing under way on line `l` differs, nor its mark and its enabled item; disabled, it is LOW. -/
structure SameUnderWay (s t : State) (l : Line) : Prop where
  mark : (t.view l).mark = (s.view l).mark
  enabled : (t.view l).enabled = (s.view l).enabled
  low : (t.view l).enabled = false → (t.view l).delivered = .low
  path : t.linePath.filter (fun r => r.line = l) = s.linePath.filter fun r => r.line = l
  config : (t.line l).config = (s.line l).config
  report : (t.line l).report = (s.line l).report

namespace LineUnderWay

variable {s t : State} {l : Line}

theorem congr (h : LineUnderWay s l) (hsame : SameUnderWay s t l) : LineUnderWay t l := by
  have hmem {r : LineReq} (hl : r.line = l) : r ∈ t.linePath ↔ r ∈ s.linePath := by
    have hiff : r ∈ t.linePath.filter (fun r => r.line = l) ↔ r ∈ s.linePath.filter fun r => r.line = l := by
      rw [hsame.path]
    simpa [hl] using hiff
  refine ⟨fun hmark => ?_, fun hmark => ?_, fun r hr hl henabled => ?_, fun r hr => ?_, hsame.low, fun r hr => ?_⟩
  · obtain ⟨hnone, hreport, henabled⟩ := h.settled (hsame.mark ▸ hmark)
    exact ⟨fun r hr hl => hnone r ((hmem hl).1 hr) hl, hsame.report.trans hreport,
      by rw [hsame.enabled, henabled, hsame.config]⟩
  · rw [List.countP_eq_length_filter, hsame.path, ← List.countP_eq_length_filter, hsame.report]
    exact h.marked (hsame.mark ▸ hmark)
  · rw [hsame.config]
    exact h.forwarded r ((hmem hl).1 hr) hl (hsame.enabled ▸ henabled)
  · rw [hsame.config, hsame.enabled]
    exact h.reported r (hsame.report ▸ hr)
  · exact h.reportLow r (hsame.report ▸ hr)

/-- With the view as it was. -/
theorem congr_view (h : LineUnderWay s l) (hview : t.view l = s.view l)
    (hpath : t.linePath.filter (fun r => r.line = l) = s.linePath.filter fun r => r.line = l)
    (hconfig : (t.line l).config = (s.line l).config) (hreport : (t.line l).report = (s.line l).report) :
    LineUnderWay t l :=
  h.congr ⟨by rw [hview], by rw [hview], by rw [hview]; exact h.low, hpath, hconfig, hreport⟩

/-- A configuration on the path: the line is marked, it is the only one, and no report waits (R142). -/
theorem on_path (h : LineUnderWay s l) {r : LineReq} (hr : r ∈ s.linePath) (hl : r.line = l) :
    (s.view l).mark = true ∧ (s.linePath.countP fun r => r.line = l) = 1 ∧ (s.line l).report = none := by
  have hmark : (s.view l).mark = true := by
    by_contra hmark
    exact (h.settled (Bool.eq_false_iff.2 hmark)).1 r hr hl
  have hone := h.marked hmark
  have hpos : 0 < s.linePath.countP fun r => r.line = l := List.countP_pos_iff.2 ⟨r, hr, by simpa using hl⟩
  refine ⟨hmark, by omega, ?_⟩
  cases hreport : (s.line l).report with
  | none => rfl
  | some r' =>
    rw [hreport, Option.isSome_some, if_pos rfl] at hone
    omega

/-- A report that waits: the line is marked, and no configuration is on the path (R144). -/
theorem on_report (h : LineUnderWay s l) {r : LevelReport} (hr : (s.line l).report = some r) :
    (s.view l).mark = true ∧ ∀ r ∈ s.linePath, r.line ≠ l := by
  have hmark : (s.view l).mark = true := by
    by_contra hmark
    have hnone := (h.settled (Bool.eq_false_iff.2 hmark)).2.1
    simp [hr] at hnone
  have hone := h.marked hmark
  rw [hr, Option.isSome_some, if_pos rfl] at hone
  have hzero : (s.linePath.countP fun r => r.line = l) = 0 := by omega
  exact ⟨hmark, by simpa using List.countP_eq_zero.1 hzero⟩

end LineUnderWay

/-! ### The acts of the line family -/

/-- The line view after a SET_LINE that passes its checks (R142). -/
theorem forwardLine_view (p : Port) (l m : Line) (cfg : LineConfig) (s : State) :
    (forwardLine p l cfg s).view m = if m = l then
      (if alters (s.line l).config cfg then { enabled := false, delivered := .low, mark := true }
        else { s.view l with mark := true })
    else s.view m := by
  unfold forwardLine
  exact s.view_set l m _

/-- A SET_LINE that is not refused alters no line that a live watch names (R141). -/
theorem not_alters_of_named {s : State} {l : Line} {cfg : LineConfig} (hs : EnabledInv s)
    (h : ¬SetLineRefused s l cfg) {i : Idx} (hlive : (s.engine.watch i).live = true)
    (hl : l ∈ (s.engine.watch i).lines) : alters (s.line l).config cfg = false := by
  obtain ⟨hmark, hdisturbs⟩ := not_or.1 h
  have henabled : (s.line l).config.enable = true :=
    ((hs.underWay l).settled (by simpa using hmark)).2.2 ▸ hs.named i hlive l hl
  obtain ⟨hstays, hpolarity⟩ := not_or.1 fun hd => hdisturbs ⟨.inr ⟨i, hlive, hl⟩, hd⟩
  have hcfg : cfg.enable = true := by simpa [henabled] using hstays
  simpa [alters, henabled, hcfg] using hpolarity

/-- The line view after a report is taken (R145). -/
theorem takeReport_view (s : State) (l m : Line) (r : LevelReport) : (takeReport s l r).view m =
    if m = l then { enabled := r.enable, delivered := r.level, mark := false } else s.view m := by
  rw [takeReport_eq]
  exact s.view_set l m _

/-- A report that enables what the view enabled keeps what live watches name, through the loss it may serve. -/
theorem takeReport_named {s : State} {l : Line} {r : LevelReport} (h : NamedEnabled s.engine.view s.engine.table)
    (hstays : (s.view l).enabled = true → r.enable = true) :
    NamedEnabled (takeReport s l r).engine.view (takeReport s l r).engine.table := by
  have hset (v : LineView) (hv : v.enabled = r.enable) :
      NamedEnabled (s.engine.view.set l v) s.engine.table := h.mono fun m hm => by
    rw [s.view_set l m v]
    split
    · next heq => exact hv.trans (hstays (heq ▸ hm))
    · exact hm
  rw [takeReport_eq]
  cases r.lost with
  | false => exact hset _ rfl
  | true =>
    have hserved : NamedEnabled (s.engine.view.set l { s.view l with enabled := r.enable, delivered := r.level }) _ :=
      (linesOn_rules ⟨s.time.now, _⟩).cascade.serveLine l { dir := .rise, stamp := r.stamp, lost := true } (hset _ rfl)
    refine hserved.mono fun m hm => ?_
    rw [s.view_set] at hm
    show (s.engine.view.set l _)[m].enabled = true
    rw [s.view_set]
    split
    · next heq => rwa [if_pos heq] at hm
    · next heq => rwa [if_neg heq] at hm

/-- A line whose report is taken is settled again, as the report says (R145). -/
theorem LineUnderWay.taken {s t : State} {l : Line} {r : LevelReport} (h : LineUnderWay s l)
    (hr : (s.line l).report = some r) (hview : t.view l = { enabled := r.enable, delivered := r.level, mark := false })
    (hpath : t.linePath = s.linePath) (hline : t.line l = { s.line l with report := none }) : LineUnderWay t l := by
  have hnone := (h.on_report hr).2
  have hconfig := (h.reported r hr).1
  refine ⟨fun _ => ⟨hpath ▸ hnone, by rw [hline], by rw [hview, hline, hconfig]⟩, fun hmark => ?_, fun x hx hl => ?_,
    fun x hx => ?_, fun hoff => ?_, fun x hx => ?_⟩
  · exact absurd (hview ▸ hmark) nofun
  · exact absurd hl (hnone x (hpath ▸ hx))
  · exact absurd (hline ▸ hx) nofun
  · rw [hview] at hoff ⊢
    exact h.reportLow r hr hoff
  · exact absurd (hline ▸ hx) nofun

namespace EnabledInv

variable {s t : State}

theorem named_view (h : EnabledInv s) : NamedEnabled s.engine.view s.engine.table := h.named

theorem of_named (hnamed : NamedEnabled t.engine.view t.engine.table) (hlines : ∀ l, LineUnderWay t l) :
    EnabledInv t := ⟨hnamed, hlines⟩

theorem quiet (h : EnabledInv s) (hq : Quiet s t) : EnabledInv t := by
  refine .of_named (hq.view ▸ h.named_view.of_watches hq.records.watches) fun l => ?_
  refine (h.underWay l).congr_view ?_ (by rw [hq.path]) (hq.lines l).1 (hq.lines l).2
  rw [State.view, hq.view, State.view]

theorem lineForwarded (h : EnabledInv s) (p : Port) {l : Line} {cfg : LineConfig} (hok : ¬SetLineRefused s l cfg) :
    EnabledInv (forwardLine p l cfg s) := by
  have hmark : (s.view l).mark = false := by simpa using (not_or.1 hok).1
  obtain ⟨hnone, hreport, henabled⟩ := (h.underWay l).settled hmark
  refine ⟨fun i hlive m hm => ?_, fun m => ?_⟩
  · have hbefore := h.named i hlive m hm
    rw [forwardLine_view]
    split
    · next heq =>
      subst heq
      rwa [not_alters_of_named h hok hlive hm]
    · exact hbefore
  · by_cases hm : m = l
    · subst hm
      have hview := (forwardLine_view p m m cfg s).trans (if_pos rfl)
      have hpath : (forwardLine p m cfg s).linePath =
        s.linePath ++ [({ line := m, config := cfg, reply := some p } : LineReq)] := rfl
      refine ⟨fun hunmarked => ?_, fun _ => ?_, fun r hr hl hon => ?_, fun r hr => ?_, fun hoff => ?_, fun r hr => ?_⟩
      · rw [hview] at hunmarked
        split at hunmarked <;> exact absurd hunmarked nofun
      · have hzero : (s.linePath.countP fun r => r.line = m) = 0 := List.countP_eq_zero.2 (by simpa using hnone)
        rw [hpath, List.countP_append, hzero]
        have hreport' : ((forwardLine p m cfg s).line m).report = none := hreport
        simp [hreport']
      · have hr : r = ({ line := m, config := cfg, reply := some p } : LineReq) :=
          List.mem_singleton.1 ((List.mem_append.1 (hpath ▸ hr)).resolve_left fun hmem => hnone r hmem hl)
        rw [hview] at hon
        split at hon
        · exact absurd hon nofun
        · next halters =>
          have hconfig : (s.line m).config.enable = true := henabled ▸ hon
          have hcfg : cfg.enable = (s.line m).config.enable := by
            by_contra hne
            exact halters (alters_iff.2 (.inl (Ne.symm hne)))
          exact ⟨by rw [hr, hcfg]; exact hconfig, hconfig⟩
      · exact absurd (hreport.symm.trans hr) nofun
      · rw [hview] at hoff ⊢
        split at hoff
        · next halters =>
          rw [if_pos halters]
        · next halters =>
          rw [if_neg halters]
          exact (h.underWay m).low hoff
      · exact absurd (hreport.symm.trans hr) nofun
    · refine (h.underWay m).congr_view ((forwardLine_view p l m cfg s).trans (if_neg hm)) ?_ rfl rfl
      show (s.linePath ++ [({ line := l, config := cfg, reply := some p } : LineReq)]).filter _ = _
      simp [List.filter_append, Ne.symm hm]

theorem lineApplied (h : EnabledInv s) (pins : BitVec 24) {r : LineReq} {rest : List LineReq}
    (hpath : s.linePath = r :: rest) :
    EnabledInv (({ s with linePath := rest, pins := pins } : State).setLine r.line
      (applyConfig (s.line r.line) r.config (pins.getLsbD r.line.val) s.time.now r.reply)) := by
  refine ⟨h.named, fun m => ?_⟩
  have hline := State.line_setLine ({ s with linePath := rest, pins := pins } : State) r.line m
    (applyConfig (s.line r.line) r.config (pins.getLsbD r.line.val) s.time.now r.reply)
  by_cases hm : m = r.line
  · subst hm
    have hhead : r ∈ s.linePath := hpath ▸ List.mem_cons_self
    obtain ⟨hmark, hone, -⟩ := (h.underWay r.line).on_path hhead rfl
    rw [hpath, List.countP_cons_of_pos (by simp)] at hone
    have hzero : (rest.countP fun x => x.line = r.line) = 0 := by omega
    rw [if_pos rfl] at hline
    refine ⟨fun hunmarked => ?_, fun _ => ?_, fun x hx hl => ?_, fun x hx => ?_, (h.underWay r.line).low,
      fun x hx => ?_⟩
    · exact absurd (hmark.symm.trans hunmarked) nofun
    · rw [hline]
      show (rest.countP fun x => x.line = r.line) + 1 = 1
      omega
    · exact absurd hl (by simpa using List.countP_eq_zero.1 hzero x hx)
    · rw [hline] at hx ⊢
      obtain rfl := Option.some.inj hx
      exact ⟨rfl, fun hon => ((h.underWay r.line).forwarded r hhead rfl hon).1⟩
    · rw [hline] at hx
      obtain rfl := Option.some.inj hx
      intro hoff
      have hoff : r.config.enable = false := hoff
      simp [levelAfter, hoff]
  · rw [if_neg hm] at hline
    refine (h.underWay m).congr_view rfl ?_ (by rw [hline]; rfl) (by rw [hline]; rfl)
    rw [hpath, List.filter_cons_of_neg (by simpa using Ne.symm hm)]
    rfl

theorem reportTaken (h : EnabledInv s) {l : Line} {r : LevelReport} (hr : (s.line l).report = some r) :
    EnabledInv (takeReport (s.setLine l { s.line l with report := none }) l r) := by
  have hstays : (s.view l).enabled = true → r.enable = true := ((h.underWay l).reported r hr).2
  have hline (m : Line) : (takeReport (s.setLine l { s.line l with report := none }) l r).line m =
      if m = l then { s.line l with report := none } else s.line m := by
    rw [takeReport_eq]
    exact s.line_setLine l m _
  have hpath : (takeReport (s.setLine l { s.line l with report := none }) l r).linePath = s.linePath := by
    rw [takeReport_eq]
    rfl
  have hnamed := takeReport_named (s := s.setLine l { s.line l with report := none }) h.named_view hstays
  refine .of_named hnamed fun m => ?_
  have hview := takeReport_view (s.setLine l { s.line l with report := none }) l m r
  by_cases hm : m = l
  · subst hm
    exact (h.underWay m).taken hr (hview.trans (if_pos rfl)) hpath ((hline m).trans (if_pos rfl))
  · have hsame : (takeReport (s.setLine l { s.line l with report := none }) l r).line m = s.line m :=
      (hline m).trans (if_neg hm)
    exact (h.underWay m).congr_view (hview.trans (if_neg hm)) (by rw [hpath]) (by rw [hsame]) (by rw [hsame])

theorem edgeTaken (h : EnabledInv s) (l : Line) (e : Edge) : EnabledInv (takeEdge s l e) := by
  unfold takeEdge
  split
  · next hon =>
    have hview := s.view_set l
    have hafter (m : Line) : (s.engine.view.set l { s.view l with delivered := e.dir.level })[m].enabled =
        (s.view m).enabled := by
      rw [hview]
      split
      · next heq => rw [heq]
      · rfl
    have hnamed : NamedEnabled (s.engine.view.set l { s.view l with delivered := e.dir.level }) s.engine.table :=
      h.named_view.mono fun m hm => (hafter m).trans hm
    refine .of_named ((linesOn_rules _).cascade.serveLine l e hnamed) fun m => (h.underWay m).congr ?_
    refine ⟨?_, hafter m, fun hoff => ?_, rfl, rfl, rfl⟩
    · refine (congrArg LineView.mark (hview m _)).trans ?_
      split
      · next heq => rw [heq]
      · rfl
    · have hoff' : (s.view m).enabled = false := (hafter m).symm.trans hoff
      refine (congrArg LineView.delivered (hview m _)).trans ?_
      split
      · next heq => rw [heq, hon] at hoff'; exact absurd hoff' nofun
      · exact (h.underWay m).low hoff'
  · exact h

theorem deviceReset (h : EnabledInv s) (p : Port) : EnabledInv (s.deviceReset p) := by
  refine .of_named (NamedEnabled.reset _) fun l => ?_
  have hline : (s.deviceReset p).line l = (s.line l).deviceReset := by
    simp [State.line, State.deviceReset]
  have hview : (s.deviceReset p).view l = (s.view l).deviceReset (s.line l).accepted := by
    simp [State.view, State.deviceReset, Engine.deviceReset, State.line]
  have hpath : (s.deviceReset p).linePath = s.linePath.map fun r => { r with reply := none } := rfl
  have hl := h.underWay l
  refine ⟨fun hmark => ?_, fun hmark => ?_, fun r hr hrl hon => ?_, fun r hr => ?_, fun hoff => ?_, fun r hr => ?_⟩
  · rw [hview] at hmark
    obtain ⟨hnone, hreport, henabled⟩ := hl.settled hmark
    rw [hpath, hline, hview]
    refine ⟨fun r hr => ?_, by simp [LineState.deviceReset, hreport], henabled⟩
    obtain ⟨x, hx, rfl⟩ := List.mem_map.1 hr
    exact hnone x hx
  · rw [hview] at hmark
    rw [hpath, hline, List.countP_map]
    simpa [LineState.deviceReset, Function.comp_def] using hl.marked hmark
  · rw [hview] at hon
    rw [hpath] at hr
    obtain ⟨x, hx, rfl⟩ := List.mem_map.1 hr
    rw [hline]
    exact hl.forwarded x hx hrl hon
  · rw [hline] at hr ⊢
    rw [hview]
    obtain ⟨x, hx, rfl⟩ := Option.map_eq_some_iff.1 hr
    exact hl.reported x hx
  · rw [hview] at hoff ⊢
    have hoff : (s.view l).enabled = false := hoff
    simp [LineView.deviceReset, hoff]
  · rw [hline] at hr
    obtain ⟨x, hx, rfl⟩ := Option.map_eq_some_iff.1 hr
    exact hl.reportLow x hx

/-- After a hardware reset no line is enabled and nothing is under way (R47, R151). -/
theorem hardwareReset {t : State} (hengine : t.engine = Engine.reset) (hpath : t.linePath = [])
    (hlines : t.lineUnit = LineUnit.reset) : EnabledInv t := by
  refine .of_named (hengine ▸ NamedEnabled.reset _) fun l => ?_
  have hview : t.view l = { enabled := false, delivered := .low, mark := false } := by
    simp [State.view, hengine, Engine.reset]
  have hline : t.line l = LineState.reset := by simp [State.line, hlines, LineUnit.reset]
  constructor <;> simp [hview, hline, hpath, LineState.reset]

/-- Every act keeps it. -/
theorem of_act (ha : Act s t) (hlists : ListsInv s.engine.table) (h : EnabledInv s) : EnabledInv t := by
  cases ha with
  | engine ha =>
    have hview : ∀ l, (s.setEngine _).view l = s.view l := fun l => congrArg (fun v => v[l]) ha.view
    refine .of_named ?_ fun l => (h.underWay l).congr_view (hview l) rfl rfl rfl
    have hnamed := NamedEnabled.act ha hlists h.named_view
    rw [State.setEngine_engine, ha.view]
    exact hnamed
  | lineForwarded p l cfg hok => exact h.lineForwarded p hok
  | lineApplied pins r rest hpath => exact h.lineApplied pins hpath
  | reportTaken l r hr => exact h.reportTaken hr
  | edgeTaken l e => exact h.edgeTaken l e
  | deviceReset p => exact h.deviceReset p
  | hardwareReset t hengine hpath hlines => exact .hardwareReset hengine hpath hlines

end EnabledInv

/-- Settles O60: a SET_LINE is refused where it would disable a line that a live watch names, a report enables what the
view enabled, and a run starts only where its lines are enabled. -/
theorem stepKeepsEnabled : Obligations.StepKeepsEnabled := fun s t hlists h hstep => by
  obtain ⟨s', t', hbefore, hact, hafter⟩ := does_of_step hstep
  exact ((h.quiet hbefore).of_act hact (hlists.of_sameRecords hbefore.records)).quiet hafter

end Sys2Proof.Machine

/-! PROOFS. The table and its commands: the checks of R8 (O6), CREATE (O7), RETIRE (O13), FIND and SCAN (O14) and
READ_WATCH (O15). -/

namespace Sys2Proof.Machine

open Sys2Proof

/-! ### The checks of R8 (O6) -/

/-- The command is carried out through the checks of R8, from no state but those listed. -/
def CheckedBy (c : Instr) (p : Port) (b : Byte) (mutating : Bool) (states : List WState) (s : State) : Prop :=
  ∃ (takenFrom : WState → Bool) (k : Engine → Idx → Engine × Response),
    exec c s = atEngine p c s (onEngine fun e => onWatch e p b mutating takenFrom (k e)) ∧
      ∀ st, st ≠ .free → st ∉ states → takenFrom st = false

theorem seal_checkedBy (p : Port) (b : Byte) (s : State) : CheckedBy (.seal p b) p b true [.draft] s := by
  refine ⟨_, _, rfl, fun st => ?_⟩
  cases st <;> decide

/-- A command that names a watch is carried out through the checks of R8, from the states R8 lists for it. -/
theorem checkedBy_of_namesWatch {c : Instr} {p : Port} {b : Byte} {mutating : Bool} {states : List WState}
    (h : namesWatch c = some (p, b, mutating, states)) (s : State) : CheckedBy c p b mutating states s := by
  cases c with
  | addStep | dropStep | setActions | setOptions | reopen | arm | retire | cancel | hold | release | ack | readWatch =>
    simp only [namesWatch, Option.some.injEq, Prod.mk.injEq] at h
    obtain ⟨rfl, rfl, rfl, rfl⟩ := h
    refine ⟨_, _, rfl, fun st => ?_⟩
    cases st <;> decide
  | _ =>
    -- SEAL is left, whose constructor bears a word of Lean's own, and the commands that name no watch.
    simp only [namesWatch, Option.some.injEq, Prod.mk.injEq, reduceCtorEq] at h
    all_goals
      obtain ⟨rfl, rfl, rfl, rfl⟩ := h
      exact seal_checkedBy _ _ s

section Checks

variable {e : Engine} {b : Byte} (p : Port) (mutating : Bool) (takenFrom : WState → Bool)

theorem checkWatch_outOfRange (h : 63 < b.toNat) : checkWatch e p b mutating takenFrom = .error .badArgument := by
  rw [checkWatch, dif_neg (by omega)]

variable {i : Idx} (hb : b.toNat = i.val)

include hb

theorem checkWatch_inRange : checkWatch e p b mutating takenFrom =
    if (e.watch i).state = .free then .error .noSuchWatch
    else if mutating && (e.watch i).owner ≠ some p then .error .notOwner
    else if !takenFrom (e.watch i).state then .error .stateConflict
    else .ok i := by
  have hlt : b.toNat < 64 := hb ▸ i.isLt
  have hi : (⟨b.toNat, hlt⟩ : Idx) = i := Fin.ext hb
  simp only [checkWatch, dif_pos hlt, hi]

theorem checkWatch_free (hfree : (e.watch i).state = .free) :
    checkWatch e p b mutating takenFrom = .error .noSuchWatch := by
  rw [checkWatch_inRange p mutating takenFrom hb, if_pos hfree]

theorem checkWatch_foreign (hfree : (e.watch i).state ≠ .free) (howner : (e.watch i).owner ≠ some p) :
    checkWatch e p b true takenFrom = .error .notOwner := by
  rw [checkWatch_inRange p true takenFrom hb, if_neg hfree, if_pos (by simpa using howner)]

theorem checkWatch_conflict (hfree : (e.watch i).state ≠ .free)
    (howner : mutating = true → (e.watch i).owner = some p) (hstate : takenFrom (e.watch i).state = false) :
    checkWatch e p b mutating takenFrom = .error .stateConflict := by
  rw [checkWatch_inRange p mutating takenFrom hb, if_neg hfree, if_neg (by simpa using howner),
    if_pos (by simpa using hstate)]

end Checks

/-- A failing check refuses the command, with nothing changed. -/
theorem atEngine_checkFails {s : State} {p : Port} {c : Instr} {b : Byte} {mutating : Bool} {takenFrom : WState → Bool}
    {k : Engine → Idx → Engine × Response} {st : Status} (ho : Offered s p c)
    (h : checkWatch s.engine p b mutating takenFrom = .error st) :
    atEngine p c s (onEngine fun e => onWatch e p b mutating takenFrom (k e)) =
      .next (s.engineAnswers p s.engine (.refuse st)) := by
  have hserved : checkWatch (s.engine.served p) p b mutating takenFrom = .error st := h
  have hrefused : onWatch (s.engine.served p) p b mutating takenFrom (k (s.engine.served p)) =
      (s.engine.served p, .refuse st) := by
    rw [onWatch, hserved]
  exact atEngine_answers ho s.engine hrefused

/-- Settles O6: each of the four checks, the earlier ones passed, refuses the command with its own status. -/
theorem checksInOrder : Obligations.ChecksInOrder := by
  intro c p b mutating states s hnames ho
  obtain ⟨takenFrom, k, hexec, htaken⟩ := checkedBy_of_namesWatch hnames s
  rw [hexec]
  refine ⟨fun hb => atEngine_checkFails ho (checkWatch_outOfRange p mutating takenFrom hb), fun i hb =>
    ⟨fun hfree => ?_, fun hfree hmutating howner => ?_, fun hfree howner hstate => ?_⟩⟩
  · exact atEngine_checkFails ho (checkWatch_free p mutating takenFrom hb hfree)
  · subst hmutating
    exact atEngine_checkFails ho (checkWatch_foreign p takenFrom hb hfree howner)
  · exact atEngine_checkFails ho (checkWatch_conflict p mutating takenFrom hb hfree howner (htaken _ hfree hstate))

/-! ### CREATE (O7) and RETIRE (O13) -/

/-- Settles O7: the three checks in their order, and the record written at the lowest FREE index. -/
theorem createMakesDraft : Obligations.CreateMakesDraft := by
  intro p tag s ho
  have run (e : Engine) {r : Response} (h : createAt p tag (s.engine.served p) = (e.served p, r)) :
      exec (.create p tag) s = .next (s.engineAnswers p e r) := atEngine_answers ho e h
  have not_any (hnew : ∀ i, (tag, i) ∉ s.engine.tags) : ¬(s.engine.served p).tags.any (fun x => x.1 = tag) = true := by
    show ¬s.engine.tags.any _ = true
    simpa using hnew
  refine ⟨fun htag => run _ ?_, fun htag ⟨i, hused⟩ => run _ ?_, fun htag hnew hfull => run _ ?_,
    fun i htag hnew hfree hlowest => run _ ?_⟩
  · rw [createAt, if_pos htag]
  · have hany : (s.engine.served p).tags.any (fun x => x.1 = tag) = true := List.any_eq_true.2 ⟨_, hused, by simp⟩
    rw [createAt, if_neg htag, if_pos hany]
  · rw [createAt, if_neg htag, if_neg (not_any hnew)]
    have hnone : (s.engine.served p).table.lowestFree = none := (Table.lowestFree_eq_none _).2 hfull
    simp only [hnone]
  · rw [createAt, if_neg htag, if_neg (not_any hnew)]
    have hsome : (s.engine.served p).table.lowestFree = some i := (Table.lowestFree_eq_some _ i).2 ⟨hfree, hlowest⟩
    simp only [hsome]
    rfl

/-- A watch is followed when the current step of some live watch follows it (R11). -/
theorem followed_iff {T : Table} {i : Idx} :
    followed T i = true ↔ ∃ j, (T.watch j).live = true ∧ (T.watch j).followTarget = some i := by
  simp [followed, allWatches]

/-- Settles O13: a watch that none follows is freed. -/
theorem retireFrees : Obligations.RetireFrees := by
  intro p b i s ho hn
  have run {e : Engine} {r : Response} := exec_onWatch ho hn (takenFrom := fun st => st = .draft || st = .idle ||
    st = .concluded) (by decide) rfl (e := e) (r := r)
  refine ⟨fun hfollowed => run ?_, fun hnone => run ?_⟩
  · exact if_pos (followed_iff.2 hfollowed)
  · have hnot : ¬followed (s.engine.served p).table i = true := fun h => by
      obtain ⟨j, hlive, htarget⟩ := followed_iff.1 h
      exact hnone j hlive htarget
    exact (if_neg hnot).trans rfl

/-! ### FIND and SCAN (O14) -/

/-- An entry of SCAN is the owner code above the state code (R207). -/
theorem scanByte_eq (w : Watch) :
    scanByte w = BitVec.ofNat 8 (16 * (ownerCode w.owner).toNat + w.state.code.toNat) := by
  have hcodes (o : Option Port) (st : WState) :
      ownerCode o <<< 4 ||| st.code = BitVec.ofNat 8 (16 * (ownerCode o).toNat + st.code.toNat) := by
    rcases o with _ | p
    · cases st <;> rfl
    · cases p <;> cases st <;> rfl
  exact hcodes w.owner w.state

/-- The indices SCAN runs over: the run ends at 63 (R15). -/
theorem scanRun_length (first count : Nat) :
    ((allWatches.drop first).take count).length = min count (64 - first) := by
  simp [allWatches]

theorem scanRun_getElem? {first count k : Nat} {i : Idx} (hk : k < count) (hi : i.val = first + k) :
    ((allWatches.drop first).take count)[k]? = some i := by
  rw [List.getElem?_take_of_lt hk, List.getElem?_drop, ← hi]
  simp [allWatches]

/-- Settles O14: the first pair with the tag, and a run of indices with an entry each. -/
theorem findAndScanAnswer : Obligations.FindAndScanAnswer := by
  intro p s
  refine ⟨fun tag ho => ?_, fun first count ho => ?_⟩
  · have run {r : Response} (h : findAt tag (s.engine.served p) = r) :
        exec (.find p tag) s = .next (s.engineAnswers p s.engine r) :=
      atEngine_answers ho s.engine (congrArg (Prod.mk (s.engine.served p)) h)
    refine ⟨fun htag => run ?_, fun htag hnone => run ?_, fun before i after htag htags hnone => run ?_⟩
    · rw [findAt, if_pos htag]
    · have hfind : (s.engine.served p).tags.find? (fun x => x.1 = tag) = none := by
        rw [List.find?_eq_none]
        rintro ⟨t, i⟩ hmem heq
        obtain rfl : t = tag := by simpa using heq
        exact hnone i hmem
      simp only [findAt, if_neg htag, hfind]
    · have hbefore : before.find? (fun x => x.1 = tag) = none := by
        rw [List.find?_eq_none]
        rintro ⟨t, j⟩ hmem heq
        obtain rfl : t = tag := by simpa using heq
        exact hnone j hmem
      have hfind : (s.engine.served p).tags.find? (fun x => x.1 = tag) = some (tag, i) := by
        show s.engine.tags.find? _ = _
        rw [htags, List.find?_append, hbefore, Option.none_or, List.find?_cons_of_pos (by simp)]
      simp only [findAt, if_neg htag, hfind]
      rfl
  · have run {r : Response} (h : scanAt first count (s.engine.served p) = r) :
        exec (.scan p first count) s = .next (s.engineAnswers p s.engine r) :=
      atEngine_answers ho s.engine (congrArg (Prod.mk (s.engine.served p)) h)
    refine ⟨fun hbad => run ?_, fun hfirst hzero hcount =>
      ⟨((allWatches.drop first.toNat).take count.toNat).map fun i => scanByte (s.engine.watch i), run ?_, ?_,
        fun k i hk hi => ?_⟩⟩
    · unfold scanAt
      rcases hbad with hfirst | hcount
      · rw [if_pos hfirst]
      · split
        · rfl
        · rw [if_pos (by simpa using hcount)]
    · have hlimits : ¬(count = 0 || 16 < count.toNat) = true := by
        simpa using ⟨hzero, hcount⟩
      rw [scanAt, if_neg (by omega), if_neg hlimits, List.length_map]
      rfl
    · rw [List.length_map, scanRun_length]
    · rw [List.length_map, scanRun_length] at hk
      rw [List.getElem?_map, scanRun_getElem? (by omega) hi, Option.map_some, scanByte_eq]

/-! ### READ_WATCH (O15) -/

/-- An optional number's value is 0 when it is absent (R198). -/
theorem elim_toNat {n : Nat} (x : Option (BitVec n)) : x.elim 0 BitVec.toNat = (x.getD 0).toNat := by
  cases x <;> simp

theorem timeBytes_eq (t : Option Time) : timeBytes t = field 6 (t.getD 0).toNat := by
  rw [timeBytes, elim_toNat, bytesOf_eq_field]

theorem durationBytes_eq (d : Option Duration) : durationBytes d = field 3 (d.getD 0).toNat := by
  rw [durationBytes, elim_toNat, bytesOf_eq_field]

theorem flagByte_three (a b c : Bool) : flagByte [a, b, c] =
    BitVec.ofNat 8 ((if a then 1 else 0) + (if b then 2 else 0) + (if c then 4 else 0)) := by
  cases a <;> cases b <;> cases c <;> rfl

theorem flagByte_four (a b c d : Bool) : flagByte [a, b, c, d] =
    BitVec.ofNat 8 ((if a then 1 else 0) + (if b then 2 else 0) + (if c then 4 else 0) + (if d then 8 else 0)) := by
  cases a <;> cases b <;> cases c <;> cases d <;> rfl

/-- An action list of at most four actions takes eight bytes (R18, R206). -/
theorem actionListBytes_eq {acts : List Action} (h : acts.length ≤ 4) :
    actionListBytes acts = acts.flatMap Action.bytes ++ List.replicate (8 - 2 * acts.length) 0 := by
  have hlength : (acts.flatMap Action.bytes).length = 2 * acts.length := by
    clear h
    induction acts with
    | nil => rfl
    | cons a acts ih =>
      have ha : a.bytes.length = 2 := by cases a <;> rfl
      rw [List.flatMap_cons, List.length_append, ih, ha, List.length_cons]
      omega
  rw [actionListBytes, List.take_append, hlength, List.take_of_length_le (by omega), List.take_replicate]
  congr 2
  omega

section ReadWatch

variable {p : Port} {b part k : Byte} {i : Idx} {s : State} (ho : Offered s p (.readWatch p b part k))
  (hb : b.toNat = i.val) (hfree : (s.engine.watch i).state ≠ .free)

include hb hfree

/-- READ_WATCH on a watch in use, whoever owns it, passes the checks (R16). -/
theorem onWatch_inUse (k' : Idx → Engine × Response) :
    onWatch (s.engine.served p) p b false (fun _ => true) k' = k' i := by
  have hfree' : ((s.engine.served p).watch i).state ≠ .free := hfree
  have hcheck : checkWatch (s.engine.served p) p b false (fun _ => true) = .ok i := by
    rw [checkWatch_inRange p false (fun _ => true) hb, if_neg hfree']
    rfl
  rw [onWatch, hcheck]

include ho

theorem exec_readWatch_part {bytes : List Byte} (h : readPart s.engine.table i part k = some bytes) :
    exec (.readWatch p b part k) s = .next (s.engineAnswers p s.engine (.ok bytes)) := by
  refine atEngine_answers ho s.engine ((onWatch_inUse hb hfree _).trans ?_)
  simp only [h]

theorem exec_readWatch_refused (h : readPart s.engine.table i part k = none) :
    exec (.readWatch p b part k) s = .next (s.engineAnswers p s.engine (.refuse .badArgument)) := by
  refine atEngine_answers ho s.engine ((onWatch_inUse hb hfree _).trans ?_)
  simp only [h]

end ReadWatch

/-- The STEP part: the descriptor at a position held (R18). -/
theorem readPart_step (T : Table) (i : Idx) (k : Byte) : readPart T i 4 k =
    if k.toNat < 6 then ((T.watch i).steps[k.toNat]?).map StepDesc.bytes else none := rfl

theorem readPart_unknown (T : Table) (i : Idx) {part : Byte} (k : Byte) (h : part = 0 ∨ 5 < part.toNat) :
    readPart T i part k = none := by
  have hne (n : Byte) (hn : 1 ≤ n.toNat ∧ n.toNat ≤ 5) : part ≠ n := by
    rintro rfl
    rcases h with h | h
    · simp [h] at hn
    · omega
  rw [readPart, if_neg (hne 1 (by decide)), if_neg (hne 2 (by decide)), if_neg (hne 3 (by decide)),
    if_neg (hne 4 (by decide)), if_neg (hne 5 (by decide))]

/-- Settles O15: each part is its bytes in the claim's layout, and what is no part is refused. -/
theorem readWatchAnswers : Obligations.ReadWatchAnswers := by
  intro p b part k i s ho hb hfree w answers
  have read {bytes : List Byte} := exec_readWatch_part ho hb hfree (bytes := bytes)
  refine ⟨fun hpart => read ?_, fun hpart d hd => read ?_, fun hpart => read ?_, fun hpart d hk hstep => read ?_,
    fun hpart hmet hfail => read ?_, fun hbad => exec_readWatch_refused ho hb hfree ?_⟩
  · subst hpart
    show some (summaryBytes w) = _
    rw [summaryBytes, elim_toNat, bytesOf_eq_field]
  · subst hpart hd
    show some (progressBytes w _) = _
    simp only [progressBytes, bytesOf_eq_field, timeBytes_eq, flagByte_three]
  · subst hpart
    show some (resultsBytes w) = _
    simp only [resultsBytes, bytesOf_eq_field, timeBytes_eq, durationBytes_eq, flagByte_four]
  · subst hpart
    rw [readPart_step, if_pos hk]
    exact congrArg (Option.map StepDesc.bytes) hstep
  · subst hpart
    show some (actionsBytes w) = _
    simp only [actionsBytes, actionListBytes_eq hmet, actionListBytes_eq hfail, List.append_assoc]
  · rcases hbad with hpart | hpart | ⟨hpart, hk⟩
    · exact readPart_unknown _ i k (.inl hpart)
    · exact readPart_unknown _ i k (.inr hpart)
    · subst hpart
      rw [readPart_step]
      split
      · next hlt =>
        have hnone : (s.engine.table.watch i).steps[k.toNat]? = none :=
          List.getElem?_eq_none (hk.resolve_left (Nat.not_le.2 hlt))
        rw [hnone, Option.map_none]
      · rfl

end Sys2Proof.Machine

/-! PROOFS. Steps and runs: the begin of a step (O17), its completion with the re-arm of a CYCLIC watch (O18), and ARM
(O22). -/

namespace Sys2Proof.Machine

open Sys2Proof

/-! ### Step begin (O17) -/

/-- Settles O17: a step whose target fits is placed by its kind and then passes its guard, or does not. -/
theorem stepBegins : Obligations.StepBegins := fun rec c T i k t d hstep =>
  ⟨beginStep_begun hstep rec c t, beginStep_chainLost hstep rec c t, fun htarget hguard =>
    ⟨_, beginStep_guard hstep rec c t htarget hguard, placeStep_begun c T i k t d⟩⟩

/-! ### Step completion (O18) -/

section Complete

variable (rec : Concluder) (c : Ctx) {T : Table} {i : Idx} (t : Time)

theorem completeStep_next (h : (T.watch i).current + 1 < (T.watch i).steps.length) : completeStep rec c T i t =
    beginStep rec c ((endStep T i).modify i fun w => { w with state := .running }) i ((T.watch i).current + 1) t :=
  if_pos h

theorem completeStep_last (h : (T.watch i).steps.length ≤ (T.watch i).current + 1) :
    completeStep rec c T i t = rec (endStep T i) i .met .none t :=
  if_neg (Nat.not_lt.2 h)

end Complete

section Met

variable (c : Ctx) (T : Table) (i : Idx) (t : Time)

/-- A conclusion MET runs the met actions, and delivers to the followers it had with the epochs they had (R78). -/
theorem servedTable_met (rec : Concluder) : servedTable rec c T i .met .none t =
    ((T.followersOf i).map fun f => (f, (T.watch f).epoch)).foldl (deliver rec c i .met t)
      ((T.watch i).metActions.foldl (runAction rec c i t) (recordedTable T i .met .none t)) := by
  have hepoch (f : Idx) : ((T.modify i fun w => w.concludedWith .met .none t).watch f).epoch = (T.watch f).epoch := by
    rw [Table.watch_modify]
    split
    · next hf => rw [hf]; rfl
    · rfl
  have hacts : ((recordedTable T i .met .none t).watch i).actionsFor .met = (T.watch i).metActions := by
    rw [recordedTable_watch, Watch.concludedWith_actionsFor]
    rfl
  simp only [servedTable, hacts, hepoch, Table.followersOf_modify]

/-- The concluding watch rests through its actions and deliveries, with its repeat option and its steps (R79). -/
theorem servedTable_rests : ((servedTable (concluder c) c T i .met .none t).watch i).rep = (T.watch i).rep ∧
    ((servedTable (concluder c) c T i .met .none t).watch i).steps = (T.watch i).steps := by
  have hsettles : (concluder c).Settles := conclude_settles c Config.cascadeDepth
  rw [(servedTable_stays hsettles c .none t i (recordedTable_state .none t)).record, recordedTable_watch]
  exact ⟨rfl, rfl⟩

/-- A ONCE watch that concludes MET is done with its deliveries; a CYCLIC one begins its step 0 again (R93). -/
theorem concluder_met : concluder c T i .met .none t = if (T.watch i).rep = .cyclic then
      beginStep (concluder c) c ((servedTable (concluder c) c T i .met .none t).modify i fun w => w.rearmed t) i 0 t
    else servedTable (concluder c) c T i .met .none t := by
  rw [conclusionProcedure c T i .met .none t, concludeWith_eq, (servedTable_rests c T i t).1]
  simp

end Met

/-- Settles O18: a completed step ends, and what follows is a step begin or the procedure of R78, whose re-arm is a step
begin too. -/
theorem stepCompletes : Obligations.StepCompletes := by
  refine ⟨fun rec c T i t => ⟨endStep T i, endStep_ends T i, completeStep_next rec c t, completeStep_last rec c t⟩,
    fun c T i t => ⟨recordedTable T i .met .none t, endStep_ends _ i, ?_⟩⟩
  have hserved := servedTable_met c T i t (concluder c)
  dsimp only
  rw [← hserved]
  refine ⟨fun honce => ?_, fun d hcyclic hstep => ?_⟩
  · rw [concluder_met, if_neg (by simp [honce])]
  · rw [concluder_met, if_pos hcyclic]
    have hstep' : (((servedTable (concluder c) c T i .met .none t).modify i fun w => w.rearmed t).watch i).steps[0]? =
        some d := by
      rw [Table.watch_modify_same]
      exact (servedTable_rests c T i t).2 ▸ hstep
    refine ⟨beginStep_begun hstep' (concluder c) c t, fun htarget hguard => ?_,
      beginStep_chainLost hstep' (concluder c) c t⟩
    exact ⟨_, placeStep_begun c _ i 0 t d, beginStep_guard hstep' (concluder c) c t htarget hguard⟩

/-! ### ARM (O22) -/

/-- A step that does not stand is broken as it begins, its arming time kept. -/
theorem beginStep_broken_armedAt {T : Table} {i : Idx} {k : Nat} {d : StepDesc} (hstep : (T.watch i).steps[k]? = some d)
    (rec : Concluder) (c : Ctx) (t : Time) (h : ¬(TargetFits T i d ∧ GuardHolds c.view d)) : ∃ T1,
    beginStep rec c T i k t = rec T1 i .broken (if TargetFits T i d then .guard else .chainLost) t ∧
      (T1.watch i).current = k ∧ (T1.watch i).armedAt = (T.watch i).armedAt := by
  by_cases htarget : TargetFits T i d
  · refine ⟨_, by rw [if_pos htarget, beginStep_guard hstep rec c t htarget fun hguard => h ⟨htarget, hguard⟩], ?_⟩
    rw [(placeStep_begun c T i k t d).watch]
    exact ⟨rfl, rfl⟩
  · refine ⟨_, by rw [if_neg htarget, beginStep_chainLost hstep rec c t htarget], ?_⟩
    rw [Table.watch_modify_same]
    exact ⟨rfl, rfl⟩

theorem linesEnabled_iff {view : Vector LineView 24} {w : Watch} :
    linesEnabled view w = true ↔ ∀ l ∈ w.lines, view[l].enabled = true := by
  simp [linesEnabled]

/-- ARM on an IDLE watch of the port whose lines are enabled answers with the state the arming leaves it in (R44). -/
theorem exec_arm {p : Port} {b : Byte} {i : Idx} {s : State} (ho : Offered s p (.arm p b)) (hn : Names s p b i [.idle])
    (hlines : ∀ l ∈ (s.engine.watch i).lines, (s.view l).enabled = true) {T' : Table} {st : WState}
    (hT' : armWatch (concluder s.ctx) s.ctx s.engine.table i s.time.now = T') (hst : (T'.watch i).state = st) :
    exec (.arm p b) s = .next (s.engineAnswers p (s.engine.withTable T') (.ok [st.code])) := by
  subst hT' hst
  exact exec_onWatch ho hn (by decide) rfl ((if_pos (linesEnabled_iff.2 hlines)).trans rfl)

/-- Settles O22: a disabled line refuses the arming; else the arming is the begin of step 0. -/
theorem armStartsRun : Obligations.ArmStartsRun := by
  intro p b i s ho hn
  refine ⟨fun ⟨l, hl, hoff⟩ => ?_, fun d hlines hstep => ?_⟩
  · refine exec_onWatch ho hn (by decide) rfl (if_neg fun henabled => ?_)
    have hon : (s.view l).enabled = true := linesEnabled_iff.1 henabled l hl
    exact absurd (hoff.symm.trans hon) nofun
  · have hidle : (s.engine.table.watch i).state = .idle := List.mem_singleton.1 hn.2.2
    have hwatch := Table.watch_modify_same s.engine.table i fun w => w.armedWith s.time.now
    have hfits : TargetFits (s.engine.table.modify i fun w => w.armedWith s.time.now) i d ↔
        TargetFits s.engine.table i d :=
      targetFits_modify (by simp [hidle, Watch.armedWith]) rfl d
    have hstep' : ((s.engine.table.modify i fun w => w.armedWith s.time.now).watch i).steps[0]? = some d := by
      rw [hwatch]
      exact hstep
    refine ⟨fun htarget hguard => ?_, fun hbroken => ?_⟩
    · have begun := beginStep_begun hstep' (concluder s.ctx) s.ctx s.time.now (hfits.2 htarget) hguard
      refine ⟨_, exec_arm ho hn hlines rfl (st := .armed) ?_, begun⟩
      exact congrArg Watch.state (begun.watch.trans (by rw [hwatch]))
    · obtain ⟨T1, hT1, hcurrent, harmed⟩ := beginStep_broken_armedAt hstep' (concluder s.ctx) s.ctx s.time.now
        fun h => hbroken (h.imp_left hfits.1)
      obtain ⟨n, hconcluded⟩ := concluder_broken s.ctx T1 i
        (if TargetFits s.engine.table i d then .guard else .chainLost) s.time.now
      simp only [hfits] at hT1
      rw [hwatch] at harmed
      refine ⟨_, exec_arm ho hn hlines hT1 (congrArg Watch.state hconcluded), ?_⟩
      rw [hconcluded]
      exact ⟨rfl, rfl, congrArg some hcurrent, rfl, harmed, rfl⟩

end Sys2Proof.Machine

/-! PROOFS. Edges, deliveries and expiries: an edge taken (O25), a snapshot entry served (O26), the EDGE step (O27), the
SPAN step (O28), a delivery (O29) and an expiry (O30). -/

namespace Sys2Proof.Machine

open Sys2Proof

theorem Watch.runs_iff {w : Watch} : w.runs = true ↔ w.state ∈ [.armed, .running] := by
  simp [Watch.runs]

/-- A change of a record matters only at the record it changes. -/
theorem Table.modify_congr {T : Table} {i : Idx} {f g : Watch → Watch} (h : f (T.watch i) = g (T.watch i)) :
    T.modify i f = T.modify i g :=
  congrArg (T.setWatch i) h

/-! ### EDGE_TAKEN (O25) -/

/-- Settles O25: the snapshot of R59 is a fold over the listeners, and a disabled line discards the edge. -/
theorem edgeTaken : Obligations.EdgeTaken := by
  intro l e rest s hreport hqueue
  have hexec : exec (.edgeTaken l) s = .next (takeEdge (s.setLine l { s.line l with queue := rest }) l e) := by
    simp only [exec, execEdgeTaken, hreport, hqueue]
  rw [hexec]
  refine ⟨fun hoff => ?_, fun hon => ?_⟩
  · have hdisabled : ¬((s.setLine l { s.line l with queue := rest }).view l).enabled = true := by
      show ¬(s.view l).enabled = true
      simp [hoff]
    rw [takeEdge, if_neg hdisabled]
  · have henabled : ((s.setLine l { s.line l with queue := rest }).view l).enabled = true := hon
    rw [takeEdge, if_pos henabled]
    rfl

/-! ### A snapshot entry (O26) -/

/-- The time an occurrence counts at: its own, or the step's start where that comes later (R61, R70). -/
theorem atOrAfter_ite (t start : Time) :
    (if atOrAfter t start then t else start) = if 2 ^ 47 ≤ (t - start).toNat then start else t := by
  by_cases h : (t - start).toNat < 2 ^ 47
  · rw [if_pos (by simpa [atOrAfter] using h), if_neg (by omega)]
  · rw [if_neg (by simpa [atOrAfter] using h), if_pos (by omega)]

section Served

variable {rec : Concluder} {c : Ctx} {e : Edge} {T : Table} {x : SnapEntry}

/-- An entry of a watch with a new epoch, or one that does not run, is skipped (R60). -/
theorem serveEntry_skipped (h : (T.watch x.watch).epoch ≠ x.epoch ∨ (T.watch x.watch).runs = false) :
    serveEntry rec c e T x = T :=
  if_pos (by simpa using h)

variable {start : Time} (hstart : (T.watch x.watch).stepStart = some start)
  (hepoch : (T.watch x.watch).epoch = x.epoch) (hruns : (T.watch x.watch).runs = true)

include hstart hepoch hruns

/-- A loss mark breaks the entry (R63). -/
theorem serveEntry_lost (hlost : e.lost = true) : serveEntry rec c e T x =
    rec T x.watch .broken .lostEdge (if 2 ^ 47 ≤ (e.stamp - start).toNat then start else e.stamp) := by
  rw [← atOrAfter_ite, serveEntry]
  simp only [hstart, hepoch, hruns, hlost]
  simp

/-- An unmarked edge breaks a GUARD entry (R64). -/
theorem serveEntry_guard (hlost : e.lost = false) (hrole : x.role = .guard) : serveEntry rec c e T x =
    rec T x.watch .broken .guard (if 2 ^ 47 ≤ (e.stamp - start).toNat then start else e.stamp) := by
  rw [← atOrAfter_ite, serveEntry]
  simp only [hstart, hepoch, hruns, hlost, hrole]
  simp

/-- A TRIGGER entry ignores an edge from before the step (R62). -/
theorem serveEntry_before (hlost : e.lost = false) (hrole : x.role = .trigger)
    (hbefore : 2 ^ 47 ≤ (e.stamp - start).toNat) : serveEntry rec c e T x = T := by
  have hnot : atOrAfter e.stamp start = false := by simpa [atOrAfter] using hbefore
  rw [serveEntry]
  simp only [hstart, hepoch, hruns, hlost, hrole, Option.getD_some, hnot]
  simp

/-- Any other edge is served through its TRIGGER entry (R66 to R68). -/
theorem serveEntry_trigger (hlost : e.lost = false) (hrole : x.role = .trigger)
    (hwithin : (e.stamp - start).toNat < 2 ^ 47) :
    serveEntry rec c e T x = serveTrigger rec c T x.watch e.dir e.stamp := by
  have hin : atOrAfter e.stamp start = true := by simpa [atOrAfter] using hwithin
  rw [serveEntry]
  simp only [hstart, hepoch, hruns, hlost, hrole, Option.getD_some, hin]
  simp

end Served

/-- Settles O26: the four fates of an entry that is not judged by its step. -/
theorem entryServed : Obligations.EntryServed := by
  intro rec c e T x start hstart precedes at_
  refine ⟨fun hskip => serveEntry_skipped (hskip.imp_right fun hstate => ?_), fun hepoch hstate => ?_⟩
  · exact Bool.eq_false_iff.2 (mt Watch.runs_iff.1 hstate)
  · have hruns := Watch.runs_iff.2 hstate
    exact ⟨serveEntry_lost hstart hepoch hruns, serveEntry_guard hstart hepoch hruns,
      serveEntry_before hstart hepoch hruns⟩

/-! ### The window (R65) -/

section Judged

variable {rec : Concluder} {T k : Table} {i : Idx} {d : StepDesc} {start τ : Time}

/-- An occurrence before `not_before` breaks the watch. -/
theorem judged_early (h : ∃ nb, d.notBefore = some nb ∧ (τ - start).toNat < nb.toNat) :
    judged rec T i d start τ k = rec T i .broken .early τ := by
  have hverdict : judgeWindow d start τ = .early := if_pos (by simpa [Option.any_eq_true] using h)
  rw [judged, hverdict]

variable (hearly : ¬∃ nb, d.notBefore = some nb ∧ (τ - start).toNat < nb.toNat)

include hearly

/-- One after `not_after` misses the step. -/
theorem judged_late {na : Duration} (hna : d.notAfter = some na) (h : na.toNat < (τ - start).toNat) :
    judged rec T i d start τ k = rec T i .missed .late (start + na.setWidth 48 + 1) := by
  have hverdict : judgeWindow d start τ = .late (after start na + 1) := by
    rw [judgeWindow, if_neg (by simpa [Option.any_eq_true] using hearly), hna]
    exact if_pos h
  rw [judged, hverdict]
  rfl

/-- One within the window is accepted. -/
theorem judged_accepted (h : ∀ na, d.notAfter = some na → (τ - start).toNat ≤ na.toNat) :
    judged rec T i d start τ k = k := by
  have hverdict : judgeWindow d start τ = .accepted := by
    rw [judgeWindow, if_neg (by simpa [Option.any_eq_true] using hearly)]
    cases hna : d.notAfter with
    | none => rfl
    | some na => exact if_neg (Nat.not_lt.2 (h na hna))
  rw [judged, hverdict]

end Judged

/-! ### The EDGE step (O27) -/

theorem EdgeKind.counts_iff {kind : EdgeKind} {dir : EdgeDir} : kind.counts dir = true ↔
    kind = .any ∨ kind = .rise ∧ dir = .rise ∨ kind = .fall ∧ dir = .fall := by
  cases kind <;> cases dir <;> decide

section Trigger

variable {rec : Concluder} {c : Ctx} {T : Table} {i : Idx} {dir : EdgeDir} {stamp start : Time} {d : StepDesc}
  (hstart : (T.watch i).stepStart = some start) (hstep : (T.watch i).step = some d)

include hstart hstep

theorem serveTrigger_edge {p : Line} {q : Option Line} {kind : EdgeKind} {n : Byte}
    (hkind : d.kind = .edge p q kind n) : serveTrigger rec c T i dir stamp =
      if kind.counts dir then judged rec T i d start stamp (countEdge rec c T i stamp) else T := by
  simp only [serveTrigger, hstart, hstep, hkind, Option.getD_some]

variable {p : Line} {v : Level} {mn mx : Option Duration} (hkind : d.kind = .span p v mn mx)

include hkind

theorem serveTrigger_waitEntry (hphase : (T.watch i).phase = .waitEntry) : serveTrigger rec c T i dir stamp =
    if dir.level = v then judged rec T i d start stamp (enterSpan c T i mx stamp) else T := by
  simp only [serveTrigger, hstart, hstep, hkind, hphase, Option.getD_some]

omit hstart in
theorem serveTrigger_inSpan (hphase : (T.watch i).phase = .inSpan) : serveTrigger rec c T i dir stamp =
    if dir.level = v then T else leaveSpan rec c T i mn mx stamp := by
  simp only [serveTrigger, hstep, hkind, hphase]

end Trigger

section Count

variable {rec : Concluder} {c : Ctx} {T : Table} {i : Idx} {stamp : Time} (hruns : (T.watch i).runs = true)

include hruns

theorem modify_counted : T.modify i Watch.counted =
    T.modify i fun w => { w with remaining := w.remaining - 1, state := .running } := by
  refine Table.modify_congr ?_
  rw [Watch.counted, Watch.progressed_of_runs hruns]

/-- With edges still to count, a LATE entry that is reached leaves (R74; log 27). -/
theorem countEdge_goes_on (hleft : (T.watch i).remaining ≠ 1) : countEdge rec c T i stamp =
    (T.modify i fun w => { w with remaining := w.remaining - 1, state := .running }).dropReachedLate c.now i := by
  have hnot : ((T.modify i Watch.counted).watch i).remaining ≠ 0 := by
    rw [Table.watch_modify_same, Watch.counted]
    intro hzero
    exact hleft (by bv_omega)
  rw [← modify_counted hruns]
  exact if_neg hnot

theorem countEdge_last (hlast : (T.watch i).remaining = 1) : countEdge rec c T i stamp = completeStep rec c
    (T.modify i fun w => { w with remaining := w.remaining - 1, state := .running }) i stamp := by
  have hzero : ((T.modify i Watch.counted).watch i).remaining = 0 := by
    rw [Table.watch_modify_same, Watch.counted, hlast]
    rfl
  rw [← modify_counted hruns]
  exact if_pos hzero

end Count

theorem dropReachedLate_eq (T : Table) (now : Time) (i : Idx) : T.dropReachedLate now i = { T with
    deadlines := T.deadlines.filter fun y => ¬(y.watch = i ∧ y.kind = .late ∧ (now - y.due).toNat < 2 ^ 47) } := by
  have hpred : (fun y : Deadline => !(decide (y.watch = i) && decide (y.kind = .late) && reached now y.due)) =
      fun y => decide ¬(y.watch = i ∧ y.kind = .late ∧ (now - y.due).toNat < 2 ^ 47) := by
    funext y
    simp only [reached, decide_not, Bool.decide_and, Bool.and_assoc]
  rw [← hpred]
  rfl

/-- Settles O27: the edge's kind, its window and the edges left decide in turn. -/
theorem edgeStepJudged : Obligations.EdgeStepJudged := by
  intro rec c e T x start d p q kind n hstart hepoch hstate hrole hlost hwithin hstep hkind counted elapsed early T1
  have hruns := Watch.runs_iff.2 hstate
  have hserved : serveEntry rec c e T x = if kind.counts e.dir then
      judged rec T x.watch d start e.stamp (countEdge rec c T x.watch e.stamp) else T :=
    (serveEntry_trigger hstart hepoch hruns hlost hrole hwithin).trans (serveTrigger_edge hstart hstep hkind)
  rw [hserved]
  refine ⟨fun hnot => if_neg (mt EdgeKind.counts_iff.1 hnot), fun hcounts hearly => ?_,
    fun na hcounts hearly hna hlate => ?_, fun hcounts hearly hwindow => ?_⟩ <;>
    rw [if_pos (EdgeKind.counts_iff.2 hcounts)]
  · exact judged_early hearly
  · exact judged_late hearly hna hlate
  · rw [judged_accepted hearly hwindow]
    refine ⟨fun hleft => ?_, countEdge_last hruns⟩
    rw [countEdge_goes_on hruns hleft, dropReachedLate_eq]
    rfl

/-! ### The SPAN step (O28) -/

theorem EdgeDir.level_eq_iff {dir : EdgeDir} {v : Level} :
    dir.level = v ↔ dir = .rise ∧ v = .high ∨ dir = .fall ∧ v = .low := by
  cases dir <;> cases v <;> decide

/-- The entering edge starts the span, and SPAN_LONG takes the place of LATE (R67). -/
theorem enterSpan_eq {c : Ctx} {T : Table} {i : Idx} (hruns : (T.watch i).runs = true) (mx : Option Duration)
    (stamp : Time) : enterSpan c T i mx stamp =
      { T.modify i (fun w => { w with state := .running, spanStart := some stamp, phase := .inSpan }) with
        deadlines :=
          let left := T.deadlines.filter fun y => y.watch ≠ i
          match mx with
          | some m => insertDeadline c.now { watch := i, due := stamp + m.setWidth 48 + 1, kind := .spanLong } left
          | none => left } := by
  have hentered : T.modify i (Watch.entered stamp) =
      T.modify i fun w => { w with state := .running, spanStart := some stamp, phase := .inSpan } := by
    refine Table.modify_congr ?_
    rw [Watch.entered, Watch.progressed_of_runs hruns]
  rw [← hentered]
  cases mx <;> rfl

/-- A span as recorded is at most 16,777,215 (R68). -/
theorem clampSpan_eq (s : Time) : clampSpan s = BitVec.ofNat 24 (min s.toNat 16777215) := by
  have hmax : Config.maxSpan.toNat = 16777215 := rfl
  unfold clampSpan
  split
  · next h =>
    rw [Nat.min_eq_left (hmax ▸ h), BitVec.ofNat_toNat]
  · next h =>
    rw [Nat.min_eq_right (by omega)]
    rfl

section Leave

variable {rec : Concluder} {c : Ctx} {T : Table} {i : Idx} {mn mx : Option Duration} {stamp entry : Time}
  (hentry : (T.watch i).spanStart = some entry)

include hentry

/-- A span shorter than its minimum breaks the watch (R68). -/
theorem leaveSpan_short (h : ∃ m, mn = some m ∧ (stamp - entry).toNat < m.toNat) :
    leaveSpan rec c T i mn mx stamp =
      rec (T.modify i fun w => { w with lastSpan := some (clampSpan (stamp - entry)) }) i .broken .short stamp := by
  simp only [leaveSpan, hentry, Option.getD_some]
  exact if_pos (by simpa [Option.any_eq_true] using h)

variable (hshort : ¬∃ m, mn = some m ∧ (stamp - entry).toNat < m.toNat)

include hshort

/-- One longer than its maximum breaks it too, as its time runs out. -/
theorem leaveSpan_long {m : Duration} (hmx : mx = some m) (h : m.toNat < (stamp - entry).toNat) :
    leaveSpan rec c T i mn mx stamp =
      rec (T.modify i fun w => { w with lastSpan := some (clampSpan (stamp - entry)) }) i .broken .long
        (entry + m.setWidth 48 + 1) := by
  simp only [leaveSpan, hentry, Option.getD_some, hmx]
  rw [if_neg (by simpa [Option.any_eq_true] using hshort), if_pos h]
  rfl

/-- One within its limits completes the step. -/
theorem leaveSpan_completes (h : ∀ m, mx = some m → (stamp - entry).toNat ≤ m.toNat) :
    leaveSpan rec c T i mn mx stamp =
      completeStep rec c (T.modify i fun w => { w with lastSpan := some (clampSpan (stamp - entry)) }) i stamp := by
  simp only [leaveSpan, hentry, Option.getD_some]
  rw [if_neg (by simpa [Option.any_eq_true] using hshort)]
  cases mx with
  | none => rfl
  | some m => exact if_neg (Nat.not_lt.2 (h m rfl))

end Leave

/-- Settles O28: the phase says whether the edge is judged by the window or ends the span. -/
theorem spanStepJudged : Obligations.SpanStepJudged := by
  intro rec c e T x start d p v mn mx hstart hepoch hstate hrole hlost hwithin hstep hkind into elapsed early
  have hruns := Watch.runs_iff.2 hstate
  have hserved := serveEntry_trigger (rec := rec) (c := c) hstart hepoch hruns hlost hrole hwithin
  rw [hserved]
  refine ⟨fun hphase => ?_, fun hphase => ?_⟩
  · rw [serveTrigger_waitEntry hstart hstep hkind hphase]
    refine ⟨fun hnot => if_neg (mt EdgeDir.level_eq_iff.1 hnot), fun hinto hearly => ?_,
      fun na hinto hearly hna hlate => ?_, fun hinto hearly hwindow => ?_⟩ <;>
      rw [if_pos (EdgeDir.level_eq_iff.2 hinto)]
    · exact judged_early hearly
    · exact judged_late hearly hna hlate
    · rw [judged_accepted hearly hwindow]
      exact enterSpan_eq hruns mx e.stamp
  · rw [serveTrigger_inSpan hstep hkind hphase]
    refine ⟨fun hinto => if_pos (EdgeDir.level_eq_iff.2 hinto), fun entry hnot hentry => ?_⟩
    rw [if_neg (mt EdgeDir.level_eq_iff.1 hnot)]
    dsimp only
    rw [← clampSpan_eq]
    exact ⟨leaveSpan_short hentry, fun m hshort hmx hlong => leaveSpan_long hentry hshort hmx hlong,
      leaveSpan_completes hentry⟩

/-! ### Deliveries (O29) -/

theorem Wanted.accepts_iff {wanted : Wanted} {o : WOutcome} (ho : o ≠ .none) : wanted.accepts o = true ↔
    wanted = .any ∨ wanted = .met ∧ o = .met ∨ wanted = .fail ∧ (o = .missed ∨ o = .broken) := by
  cases wanted <;> cases o <;> simp_all [Wanted.accepts]

section Delivered

variable {rec : Concluder} {c : Ctx} {T : Table} {w f : Idx} {o : WOutcome} {t : Time} {epoch : BitVec 16}

/-- A follower with a new epoch, or one that does not run, is skipped (R90). -/
theorem deliver_skipped (h : (T.watch f).epoch ≠ epoch ∨ (T.watch f).runs = false) :
    deliver rec c w o t T (f, epoch) = T :=
  if_pos (by simpa using h)

/-- So is one that does not follow the target by its current step. -/
theorem deliver_notFollowing (h : (T.watch f).followTarget ≠ some w) : deliver rec c w o t T (f, epoch) = T := by
  unfold deliver
  dsimp only
  split
  · rfl
  · cases hstep : (T.watch f).step with
    | none => rfl
    | some d =>
      rw [Watch.followTarget_of_step hstep] at h
      dsimp only
      cases hkind : d.kind with
      | edge | span | delay => rfl
      | follow tgt wanted =>
        have hne : tgt ≠ w := by simpa [StepDesc.target, hkind] using h
        exact if_neg hne

/-- A delivery that goes is judged at the target's conclusion, or at the step's start where that comes later (R70). -/
theorem deliver_goes {d : StepDesc} {wanted : Wanted} {start : Time} (hstart : (T.watch f).stepStart = some start)
    (hepoch : (T.watch f).epoch = epoch) (hruns : (T.watch f).runs = true) (hstep : (T.watch f).step = some d)
    (hkind : d.kind = .follow w wanted) : deliver rec c w o t T (f, epoch) =
      judged rec T f d start (if 2 ^ 47 ≤ (t - start).toNat then start else t)
        (if wanted.accepts o then completeStep rec c T f (if 2 ^ 47 ≤ (t - start).toNat then start else t)
          else rec T f .broken .chain (if 2 ^ 47 ≤ (t - start).toNat then start else t)) := by
  rw [← atOrAfter_ite]
  unfold deliver
  simp only [hstart, hepoch, hruns, hstep, hkind, Option.getD_some]
  simp

end Delivered

/-- Settles O29: a delivery that goes is judged by the window and then by the wanted outcome. -/
theorem deliveryJudged : Obligations.DeliveryJudged := by
  intro rec c T w f o t start epoch hstart goes
  refine ⟨fun hnot => ?_, fun d wanted hgoes hstep hkind ho => ?_⟩
  · by_cases hskip : (T.watch f).epoch ≠ epoch ∨ (T.watch f).runs = false
    · exact deliver_skipped hskip
    · obtain ⟨hepoch, hruns⟩ := not_or.1 hskip
      have hstate : (T.watch f).state ∈ [.armed, .running] := Watch.runs_iff.1 (by simpa using hruns)
      exact deliver_notFollowing fun htarget => hnot ⟨not_not.1 hepoch, hstate, htarget⟩
  · obtain ⟨hepoch, hstate, -⟩ := hgoes
    rw [deliver_goes hstart hepoch (Watch.runs_iff.2 hstate) hstep hkind]
    refine ⟨judged_early, fun na hearly hna hlate => judged_late hearly hna hlate, fun hearly hwindow => ?_⟩
    rw [judged_accepted hearly hwindow]
    simp only [Wanted.accepts_iff ho]

/-! ### Expiries (O30) -/

/-- Settles O30: a head that is reached leaves the list, and its kind says how the watch reacts. -/
theorem deadlineExpiry : Obligations.DeadlineExpiry := by
  intro d rest s hdeadlines T
  have hexec : exec .deadlineExpiry s = if reached s.time.now d.due then
      .next (s.setEngine (s.engine.withTable (expire s.ctx T d))) else .next s := by
    simp only [exec, execDeadlineExpiry, hdeadlines]
    rfl
  rw [hexec]
  refine ⟨fun hwaits => if_neg (by simpa [reached] using hwaits), fun hreached => ?_⟩
  rw [if_pos (by simpa [reached] using hreached), expire]
  cases d.kind <;> rfl

end Sys2Proof.Machine

/-! PROOFS. The resets: DEVICE_RESET (O51), HARDWARE_RESET (O52), and the invariants of the machine after reset
(O54). -/

namespace Sys2Proof.Machine

open Sys2Proof

/-! ### Reading what a reset leaves -/

theorem State.sweep_of_empty {t : State} (h : t.engine.sweeps = { a := SweepRecord.empty, b := SweepRecord.empty })
    (q : Port) : t.sweep q = { run := none, stop := false } := by
  rw [State.sweep, h]
  cases q <;> rfl

theorem State.reset_line (l : Line) : State.reset.line l = LineState.reset := by
  simp [State.reset, LineUnit.reset, State.line]

theorem State.reset_output (o : Output) : State.reset.output o = OutputState.reset := by
  simp [State.reset, State.output]

theorem State.reset_notice (q : Port) : State.reset.notice q = NoticeState.reset := by
  cases q <;> rfl

theorem Engine.deviceReset_view (e : Engine) (u : LineUnit) (l : Line) :
    (e.deviceReset u).view[l] = (e.view[l]).deviceReset (u.lines[l]).accepted := by
  simp [Engine.deviceReset]

section DeviceReset

variable (s : State) (p : Port)

theorem State.deviceReset_line (l : Line) : (s.deviceReset p).line l = (s.line l).deviceReset := by
  simp [State.line, State.deviceReset]

theorem State.deviceReset_output (o : Output) : (s.deviceReset p).output o = (s.output o).deviceReset := by
  simp [State.output, State.deviceReset]

theorem State.deviceReset_notice (q : Port) : (s.deviceReset p).notice q = (s.notice q).deviceReset := by
  cases q <;> rfl

theorem State.deviceReset_port : (s.deviceReset p).port p = { s.port p with resetMark := true } :=
  State.port_setPort_same ..

theorem State.deviceReset_otherPort : (s.deviceReset p).port (otherPort p) = (s.port (otherPort p)).abandon :=
  (State.port_setPort_ne _ _ (otherPort_ne p)).trans (State.port_setPort_same ..)

end DeviceReset

/-- DEVICE_RESET is the reset of every block, and the completion of the port that issued it (R193). -/
theorem exec_deviceReset {s : State} {p : Port} (ho : Offered s p (.deviceReset p)) :
    exec (.deviceReset p) s = .next (((s.pass p).deviceReset p).complete p (.ok [])) :=
  atEngine_taken ho fun s => (s.deviceReset p, some (.ok []))

/-- Settles O51: block by block, and then the two ports. -/
theorem deviceResetClears : Obligations.DeviceResetClears := by
  intro p s ho
  refine ⟨_, exec_deviceReset ho, rfl, rfl, rfl, rfl, rfl, rfl, State.sweep_of_empty rfl, fun l => ⟨?_, ?_⟩, rfl, rfl,
    rfl, rfl, fun o => ?_, fun q => ?_, ?_, ?_⟩
  · exact Engine.deviceReset_view (s.pass p).engine (s.pass p).lineUnit l
  · exact State.deviceReset_line (s.pass p) p l
  · exact State.deviceReset_output (s.pass p) p o
  · have hnotice : (((s.pass p).deviceReset p).complete p (.ok [])).notice q = (s.notice q).deviceReset :=
      State.deviceReset_notice (s.pass p) p q
    rw [hnotice]
    exact ⟨rfl, fun i => by simp [NoticeState.deviceReset]⟩
  · rw [State.complete, State.port_setPort_same, State.deviceReset_port, PortState.complete_eq_answered]
    have hpassed : (s.pass p).port p = { s.port p with request := none } := State.port_setPort_same ..
    rw [hpassed]
    exact PortState.answered_passed { s.port p with resetMark := true } (.ok [])
  · rw [State.complete, State.port_setPort_ne _ _ (otherPort_ne p), State.deviceReset_otherPort]
    have hpassed : (s.pass p).port (otherPort p) = s.port (otherPort p) :=
      State.port_setPort_ne _ _ (otherPort_ne p)
    rw [hpassed]
    rfl

/-- The state a HARDWARE_RESET leaves (R195). -/
theorem exec_hardwareReset (addr : BitVec 2) (s : State) : exec (.hardwareReset addr) s =
    .next { State.reset with
      portBAddress := Config.portBBase + addr.setWidth 7, pins := s.pins, pending := s.pending } := rfl

/-- Settles O52: the reset values of each block, from any state. -/
theorem hardwareResetValues : Obligations.HardwareResetValues := by
  intro addr s
  refine ⟨_, exec_hardwareReset addr s, rfl, rfl, ?_, rfl, rfl, rfl, rfl, fun i => ?_, State.sweep_of_empty rfl, rfl,
    rfl, rfl, rfl, rfl, fun l => ⟨?_, ?_⟩, fun o => ?_, fun q => ?_, fun q => ?_⟩
  · have hbase : Config.portBBase = 0x38 := rfl
    rw [hbase]
    bv_omega
  · simp [State.reset, Engine.reset, Engine.watch, Table.reset, Table.watch]
  · simp [State.reset, Engine.reset, State.view]
  · exact State.reset_line l
  · show State.reset.output o = OutputState.reset ∧ (State.reset.output o).pin 0 = false
    rw [State.reset_output]
    exact ⟨rfl, by decide⟩
  · show (State.reset.notice q).asserted = false ∧ (State.reset.notice q).enable = false ∧
      ∀ i : Idx, (State.reset.notice q).pending[i] = none
    rw [State.reset_notice]
    exact ⟨by decide, rfl, by decide⟩
  · cases q <;> rfl

/-- Settles O54: each invariant holds of its block's reset values. -/
theorem resetMeetsInvariants : Obligations.ResetMeetsInvariants := by
  refine ⟨poolInv_rules.reset, .reset, .reset, fun p => ?_, ?_, .hardwareReset rfl rfl rfl, ?_, ?_⟩
  · cases p <;> exact PortWf.reset _
  · refine ⟨by decide, nofun, by decide, fun l => ?_⟩
    exact State.reset_line l ▸ LineWf.reset
  · exact ⟨fun o => State.reset_output o ▸ OutputWf.reset, nofun⟩
  · refine ⟨fun p i n hn => ?_, nofun⟩
    rw [State.reset_notice] at hn
    simp [NoticeState.reset] at hn

end Sys2Proof.Machine
